-- ==== Sys2Proof/Word.lean ====
section
/-! DEFINITION. The word types of the shapodice CORE: the spec's registers are unsigned bit vectors
numbered from bit 0 (00_scope.md R6). Every operation over them that a rule describes stands in
`Machine/`. -/

namespace Sys2Proof

/-- A byte: the command word `cw` (30_encoding.md R55) and each byte of the state block (20_memory.md R46). -/
abbrev Byte := BitVec 8

/-- A word of the PRNG, `WORD_W` = 32 bits (00_scope.md R4). -/
abbrev Word := BitVec 32

/-- The 128 bits of `wdata`, of `rdata` and of the PRNG state block `S` (30_encoding.md R55, R60; 20_memory.md R46). -/
abbrev Block := BitVec 128

end Sys2Proof
end

