-- ==== Sys2Proof/Config.lean ====
section
/-! DEFINITION. What an implementation fixes (the parameters of 00_scope.md R5) and the one free
value the spec leaves without a parameter value (the PRNG state after RESET, 70_reset_and_hazards.md
R212). The defaults of R5 and the read-only tables stand in `Machine/Params.lean`. -/

namespace Sys2Proof

/-- The drive signature of one segment: the line driven high and the line driven low; lines 0, 1, 2
are X, Y, Z (20_memory.md R43; 00_scope.md R5 `SIG`). -/
structure SegmentSig where
  anode : Fin 3
  cathode : Fin 3
deriving DecidableEq, Repr

/-- The parameters of 00_scope.md R5, under the names of that table. `WellFormed.lean` checks the
table's constraints. `PRNG_RESET_STATE` is `Config.prngResetState`. -/
structure Config where
  /-- `NUM_ELEMENTS`: number of scan positions. -/
  numElements : Nat
  /-- `INDICATOR_MASK`: the constant indicator bit. -/
  indicatorMask : BitVec 6
  /-- `SIG[0..5]`: the per-segment drive signatures. -/
  sig : Vector SegmentSig 6
  /-- `SPEED_PREC`: fractional bits of `speed`. -/
  speedPrec : Nat
  /-- `ROLL_SPEED`: the rolling constant. -/
  rollSpeed : Nat
  /-- `ROLL_PERIOD`: the period of the roll timer. -/
  rollPeriod : Nat
  /-- `SPEED_W`: width of `speed`. -/
  speedW : Nat
  /-- `TIMER_W`: width of `timer`. -/
  timerW : Nat
  /-- `BLINK_MAX`: reload value of the blink timer. -/
  blinkMax : Nat
  /-- `BLINK_TIMER_W`: width of `blink_timer`. -/
  blinkTimerW : Nat
  /-- `DRAW_WHEN_PRESSED`: whether ROLL.UPDATE also draws while pressed (90_conflicts.md C1). -/
  drawWhenPressed : Bool
  /-- `SLOW_ACCUMULATES`: whether ROLL.UPDATE accumulates while slowing (90_conflicts.md C3). -/
  slowAccumulates : Bool
deriving DecidableEq, Repr

/-- `PRNG_RESET_STATE` (00_scope.md R5; 70_reset_and_hazards.md R212): what `s` holds after the
`n`-th RESET, "any 128-bit value, all-zero included, and not necessarily the same at each RESET".
A FREE VALUE without a body (DESIGN CHOICE, log entry 3). Its second argument is what `s` held before
the RESET, none at power-on: "whether RESET keeps or loses `s` is not known" (R211). -/
opaque Config.prngResetState : Nat → Option Block → Block

end Sys2Proof
end

