-- ==== Sys2Proof/Machine/Operands.lean ====
section
/-! DEFINITION. Operand assembly, packing and the codes of the enumerations: what stands between the
bits at the CORE's boundary and the values its rules speak of (30_encoding.md R58, R62 to R65;
20_memory.md R46). None of it needs the machine's state. -/

namespace Sys2Proof.Machine

/-- The PRNG registers `s[0..3]` (10_state.md R11), also the shape of the jumps' shadow state
(40_prng.md R83). -/
structure PrngState where
  s0 : Word
  s1 : Word
  s2 : Word
  s3 : Word
deriving DecidableEq, Repr

/-- `S` = {`s[3]`, `s[2]`, `s[1]`, `s[0]`} (20_memory.md R46). -/
def PrngState.toBlock (p : PrngState) : Block := p.s3 ++ p.s2 ++ p.s1 ++ p.s0

/-- `s[i]` = `wdata[32i+31:32i]` (30_encoding.md R58; 20_memory.md R46). -/
def PrngState.ofBlock (w : Block) : PrngState :=
  ⟨w.extractLsb' 0 32, w.extractLsb' 32 32, w.extractLsb' 64 32, w.extractLsb' 96 32⟩

/-- The state block as 16 bytes, byte `j` = `S[8j+7:8j]` (20_memory.md R46). -/
def blockBytes (w : Block) : List Byte := (List.range 16).map fun j => w.extractLsb' (8 * j) 8

/-- The state block whose bytes are given, byte 0 the least significant (20_memory.md R46). -/
def blockOfBytes : List Byte → Block
  | [] => 0#128
  | b :: bs => blockOfBytes bs <<< 8 ||| b.setWidth 128

/-- ButtonState (10_state.md R15; 30_encoding.md R62). -/
inductive ButtonState where
  | up
  | downEdge
  | upEdge
  | down
deriving DecidableEq, Repr

/-- The two bits of a ButtonState, bit 1 the previous and bit 0 the current debounced flag
(30_encoding.md R62). -/
def ButtonState.code : ButtonState → BitVec 2
  | .up => 0b00#2
  | .downEdge => 0b01#2
  | .upEdge => 0b10#2
  | .down => 0b11#2

/-- The ButtonState of two bits; all four codes are legal (30_encoding.md R62). -/
def ButtonState.ofCode (e : BitVec 2) : ButtonState :=
  if e = 0b00#2 then .up else if e = 0b01#2 then .downEdge else if e = 0b10#2 then .upEdge else .down

/-- The event of a ROLL.UPDATE: NONE, ROLL, STOP (30_encoding.md R63; 60_exceptions.md R194). -/
inductive RollEvent where
  | noEvent
  | roll
  | stop
deriving DecidableEq, Repr

/-- NONE = 0b00, ROLL = 0b01, STOP = 0b10 (30_encoding.md R63). -/
def RollEvent.code : RollEvent → BitVec 2
  | .noEvent => 0b00#2
  | .roll => 0b01#2
  | .stop => 0b10#2

/-- A drive of the three lines, bit i for line i (0 = X, 1 = Y, 2 = Z): `oe` driven, `lvl` high
(30_encoding.md R64; 10_state.md R27). -/
structure Drive where
  oe : BitVec 3
  lvl : BitVec 3
deriving DecidableEq, Repr

/-- All three lines floating (43_led.md R149). -/
def Drive.floating : Drive := ⟨0b000#3, 0b000#3⟩

/-- What one line does: floating, or driven high or low (30_encoding.md R64). -/
inductive LineDrive where
  | floating
  | high
  | low
deriving DecidableEq, Repr

/-- Line `i` of a drive: the capability view `set_line_mode`, `set_line_level` (30_encoding.md R64). -/
def Drive.line (d : Drive) (i : Fin 3) : LineDrive :=
  if d.oe.getLsbD i then (if d.lvl.getLsbD i then .high else .low) else .floating

/-- `oe` = `(1 << A) | (1 << C)`, `lvl` = `1 << A` (43_led.md R153). -/
def signatureDrive (p : SegmentSig) : Drive :=
  ⟨1#3 <<< p.anode.val ||| 1#3 <<< p.cathode.val, 1#3 <<< p.anode.val⟩

/-- A natural number kept in a register of `w` bits: reduced modulo 2^w (00_scope.md R6). -/
def keep (w n : Nat) : Nat := n % 2 ^ w

end Sys2Proof.Machine
end

