-- ==== Sys2Proof/Machine/Params.lean ====
section
/-! DEFINITION. The read-only tables (20_memory.md R41) and the default parameters (00_scope.md R5). -/

namespace Sys2Proof.Machine

/-- `FACE_LUT`, face 0..5 to lit segments (20_memory.md R42); indices 6 and 7 do not exist. -/
def faceLut : BitVec 3 → Option (BitVec 6)
  | 0#3 => some 0b010000#6
  | 1#3 => some 0b000001#6
  | 2#3 => some 0b001001#6
  | 3#3 => some 0b000011#6
  | 4#3 => some 0b001011#6
  | 5#3 => some 0b000111#6
  | _ => none

/-- `JUMP_K` (20_memory.md R44; UNVERIFIED: the spec's own, from general knowledge; log entry 12). -/
def jumpK : List Word := [0x8764000b#32, 0xf542d2d3#32, 0x6fa035c3#32, 0x77f2db5b#32]

/-- `LJUMP_K` (20_memory.md R45; UNVERIFIED: the spec's own, from general knowledge; log entry 12). -/
def ljumpK : List Word := [0xb523952e#32, 0x0b6f099f#32, 0xccf5a0ef#32, 0x1c580662#32]

/-- `BLINK_COUNT_INIT` (00_scope.md R4). -/
def blinkCountInit : BitVec 3 := 5#3

/-- `NUM_FACES` (00_scope.md R4). -/
def numFaces : Nat := 6

/-- The default `SIG` (20_memory.md R43). -/
def defaultSig : Vector SegmentSig 6 := #v[⟨0, 1⟩, ⟨1, 0⟩, ⟨1, 2⟩, ⟨2, 1⟩, ⟨0, 2⟩, ⟨2, 0⟩]

/-- The configuration with every default of 00_scope.md R5. -/
def defaultConfig : Config where
  numElements := 6
  indicatorMask := 0b000000#6
  sig := defaultSig
  speedPrec := 4
  rollSpeed := 256
  rollPeriod := 64
  speedW := 16
  timerW := 16
  blinkMax := 63
  blinkTimerW := 8
  drawWhenPressed := false
  slowAccumulates := true

end Sys2Proof.Machine
end

