-- ==== Sys2Proof/Syntax.lean ====
section
/-! DEFINITION. The commands of the CORE, one constructor per row of spec/opcode_table.json
(30_encoding.md R59), and the pair the host presents (R55). -/

namespace Sys2Proof

/-- A command of 30_encoding.md R59 with its operands assembled (R58). The operand types admit
exactly the values the encoding admits (one bit, three bits, 128 bits), so every term is encodable. -/
inductive Instr where
  /-- NOP (44_tick.md R176). -/
  | nop
  /-- PRNG.NEXT (40_prng.md R82). -/
  | prngNext
  /-- PRNG.JUMP (40_prng.md R84). -/
  | prngJump
  /-- PRNG.LJUMP (40_prng.md R85). -/
  | prngLjump
  /-- PRNG.GET (40_prng.md R86). -/
  | prngGet
  /-- PRNG.SET with its 128-bit write data (40_prng.md R87). -/
  | prngSet (wdata : Block)
  /-- DEB.READ `sample`; true is 1, the line reads as pressed (41_debouncer.md R101, R108). -/
  | debRead (sample : Bool)
  /-- ROLL.START (42_roll.md R121). -/
  | rollStart
  /-- ROLL.SLOW (42_roll.md R122). -/
  | rollSlow
  /-- ROLL.UPDATE (42_roll.md R123). -/
  | rollUpdate
  /-- LED.PUT `f`, 0..7, of which 6 and 7 are rejected when performed (43_led.md R146). -/
  | ledPut (f : BitVec 3)
  /-- LED.BLINK (43_led.md R147). -/
  | ledBlink
  /-- LED.UNBLINK (43_led.md R148). -/
  | ledUnblink
  /-- LED.UPDATE (43_led.md R149). -/
  | ledUpdate
  /-- TICK `sample` (44_tick.md R177). -/
  | tick (sample : Bool)
deriving DecidableEq, Repr

/-- What the host presents at the command port: the 8-bit command word and the 128-bit data operand
(30_encoding.md R55). -/
structure Command where
  cw : Byte
  wdata : Block
deriving DecidableEq, Repr

end Sys2Proof
end

