-- ==== Sys2Proof/Machine/State.lean ====
section
/-! DEFINITION. The machine's state: the 17 registers of 10_state.md R10, the two records of what the
CORE hands out (the response, 30_encoding.md R60; the drive log, 43_led.md R150), and the model's own
fields (the configuration, what the host still presents, the RESET counter). There is no memory, no
program counter and no control register (20_memory.md R40; 10_state.md R30, R31). -/

namespace Sys2Proof.Machine

/-- The response record of one command (30_encoding.md R60). -/
structure Response where
  ill : Bool
  btn : BitVec 2
  deb : Bool
  face : BitVec 3
  event : BitVec 2
  rdata : Block
deriving DecidableEq, Repr

/-- What the host does next: present a command, or apply RESET, "an event, not a command"
(30_encoding.md R55; 70_reset_and_hazards.md R210, R211). -/
inductive HostAction where
  | command (c : Command)
  | reset
deriving DecidableEq, Repr

/-- The state. `speed`, `timer` and `blinkTimer` are natural numbers because their widths are
parameters; every write keeps them within the width (log entry 9). One-bit registers are `Bool`. -/
structure State where
  /-- The configuration, fixed before reset, written by nothing (00_scope.md R5; log entry 4). -/
  cfg : Config
  /-- `s[0..3]` (10_state.md R11). -/
  prng : PrngState
  /-- `hist[7:0]` (10_state.md R13). -/
  hist : BitVec 8
  /-- `deb` (10_state.md R14). -/
  deb : Bool
  /-- `edge[1:0]` (10_state.md R15). -/
  edge : BitVec 2
  /-- `pressed` (10_state.md R17). -/
  pressed : Bool
  /-- `speed[SPEED_W-1:0]` (10_state.md R18). -/
  speed : Nat
  /-- `timer[TIMER_W-1:0]` (10_state.md R19). -/
  timer : Nat
  /-- `face[2:0]` (10_state.md R20). -/
  face : BitVec 3
  /-- `pattern[5:0]` (10_state.md R23). -/
  pattern : BitVec 6
  /-- `blink_count[2:0]` (10_state.md R24). -/
  blinkCount : BitVec 3
  /-- `blink_timer[BLINK_TIMER_W-1:0]` (10_state.md R25). -/
  blinkTimer : Nat
  /-- `scan[2:0]` (10_state.md R26). -/
  scan : BitVec 3
  /-- `line_oe[2:0]` (10_state.md R27). -/
  lineOe : BitVec 3
  /-- `line_lvl[2:0]` (10_state.md R27). -/
  lineLvl : BitVec 3
  /-- The drive log, oldest first (43_led.md R150; log entry 11). -/
  driveLog : List Drive
  /-- The response of the last command; none before the first (70_reset_and_hazards.md R211; log entry 10). -/
  resp : Option Response
  /-- What the host presents from now on, first first (30_encoding.md R55; log entry 1). -/
  host : List HostAction
  /-- The number of RESET events so far: the MODEL's counter for `Config.prngResetState` (log entry 3). -/
  resets : Nat
deriving DecidableEq, Repr

/-- No fault exists: "no exceptions are raised" (60_exceptions.md R190). The type has no constructor;
nothing can raise one (safe: the spec has none either). -/
inductive Fault where
deriving DecidableEq, Repr

/-- Why the model gives a step no meaning. -/
inductive Refusal where
  /-- Raised by an arm of `exec` whose command has no meaning yet; no arm is such (safe: the model stops). -/
  | notModelled (mnemonic : String)
  /-- Raised by `step` when the configuration breaks a constraint of 00_scope.md R5, as
  93_implementation_defined.md U7 asks (safe: the spec claims no rule outside the constraints; log entry 5). -/
  | invalidConfiguration
deriving DecidableEq, Repr

/-- The machine after power-on: 10_state.md R33 and 70_reset_and_hazards.md R210, R211. `s` is a free
value (R212; log entry 3), the configuration is that of the defaults (log entry 4), and the host has
presented nothing (log entry 1). -/
def State.reset : State where
  cfg := defaultConfig
  prng := PrngState.ofBlock (Config.prngResetState 0 none)
  hist := 0x00#8
  deb := false
  edge := 0b00#2
  pressed := false
  speed := 0
  timer := 0
  face := 0#3
  pattern := 0b000000#6
  blinkCount := 0#3
  blinkTimer := 0
  scan := 0#3
  lineOe := 0b000#3
  lineLvl := 0b000#3
  driveLog := []
  resp := none
  host := []
  resets := 0

end Sys2Proof.Machine
end

