-- ==== Sys2Proof/Machine/Flags.lean ====
section
/-! DEFINITION. The one-bit registers that play the part of flags (10_state.md R29) and the
enumerations read off them: the debouncer's three bit functions (41_debouncer.md R102 to R104) and
the states of the roll engine (10_state.md R22). -/

namespace Sys2Proof.Machine

/-- `shift_in(h, x)` = `((h << 1) | x) mod 2^8` (41_debouncer.md R102). -/
def shiftIn (h : BitVec 8) (x : Bool) : BitVec 8 := h <<< 1 ||| (BitVec.ofBool x).setWidth 8

/-- `hysteresis(h, d)`: 1 on 0xFF, 0 on 0x00, `d` otherwise (41_debouncer.md R103). -/
def hysteresis (h : BitVec 8) (d : Bool) : Bool :=
  if h = 0xFF#8 then true else if h = 0x00#8 then false else d

/-- `edge_step(e, d)` = `((e << 1) | d) mod 2^2` (41_debouncer.md R104). -/
def edgeStep (e : BitVec 2) (d : Bool) : BitVec 2 := e <<< 1 ||| (BitVec.ofBool d).setWidth 2

/-- The three states of the roll engine (10_state.md R22; 42_roll.md R120). -/
inductive RollMode where
  | idle
  | rolling
  | slowing
deriving DecidableEq, Repr

/-- The roll state read off `pressed` and `speed` by the table of 10_state.md R22; none for the
combinations outside the table, which are unreachable. -/
def State.rollMode (s : State) : Option RollMode :=
  if s.pressed = false ∧ s.speed = 0 then some .idle
  else if s.pressed = true ∧ s.speed = s.cfg.rollSpeed then some .rolling
  else if s.pressed = false ∧ s.speed ≤ s.cfg.rollSpeed >>> 1 then some .slowing
  else none

end Sys2Proof.Machine
end

