-- ==== Sys2Proof/Decode.lean ====
section
/-! DEFINITION. The decoder, the encoder and the opcode map of 30_encoding.md R59. -/

namespace Sys2Proof

/-- `cw[7:4]`, the opcode (30_encoding.md R56). -/
def Command.op (c : Command) : BitVec 4 := c.cw.extractLsb' 4 4

/-- `cw[3:0]`, the immediate operand (30_encoding.md R56). -/
def Command.imm (c : Command) : BitVec 4 := c.cw.extractLsb' 0 4

/-- One row of the opcode map: a word `cw` selects the row when `cw & mask` = `match`
(30_encoding.md R59). -/
structure OpcodeRow where
  mnemonic : String
  pattern : Byte
  mask : Byte
deriving DecidableEq, Repr

/-- The 15 rows of 30_encoding.md R59, in its order. -/
def opcodeMap : List OpcodeRow :=
  [⟨"NOP", 0x00#8, 0xFF#8⟩, ⟨"PRNG.NEXT", 0x10#8, 0xFF#8⟩, ⟨"PRNG.JUMP", 0x20#8, 0xFF#8⟩,
    ⟨"PRNG.LJUMP", 0x30#8, 0xFF#8⟩, ⟨"PRNG.GET", 0x40#8, 0xFF#8⟩, ⟨"PRNG.SET", 0x50#8, 0xFF#8⟩,
    ⟨"DEB.READ", 0x60#8, 0xFE#8⟩, ⟨"ROLL.START", 0x70#8, 0xFF#8⟩, ⟨"ROLL.SLOW", 0x80#8, 0xFF#8⟩,
    ⟨"ROLL.UPDATE", 0x90#8, 0xFF#8⟩, ⟨"LED.PUT", 0xA0#8, 0xF8#8⟩, ⟨"LED.BLINK", 0xB0#8, 0xFF#8⟩,
    ⟨"LED.UNBLINK", 0xC0#8, 0xFF#8⟩, ⟨"LED.UPDATE", 0xD0#8, 0xFF#8⟩, ⟨"TICK", 0xE0#8, 0xFE#8⟩]

/-- The word selects the row (30_encoding.md R59). -/
def OpcodeRow.selects (r : OpcodeRow) (cw : Byte) : Bool := cw &&& r.mask == r.pattern

/-- The mnemonic of a command (30_encoding.md R59, R67). -/
def Instr.mnemonic : Instr → String
  | .nop => "NOP"
  | .prngNext => "PRNG.NEXT"
  | .prngJump => "PRNG.JUMP"
  | .prngLjump => "PRNG.LJUMP"
  | .prngGet => "PRNG.GET"
  | .prngSet _ => "PRNG.SET"
  | .debRead _ => "DEB.READ"
  | .rollStart => "ROLL.START"
  | .rollSlow => "ROLL.SLOW"
  | .rollUpdate => "ROLL.UPDATE"
  | .ledPut _ => "LED.PUT"
  | .ledBlink => "LED.BLINK"
  | .ledUnblink => "LED.UNBLINK"
  | .ledUpdate => "LED.UPDATE"
  | .tick _ => "TICK"

/-- Why a command word is reserved (30_encoding.md R61). -/
inductive DecodeError where
  /-- `op` = 0xF. -/
  | reservedOpcode
  /-- A must-be-zero bit of `imm` is set under a defined `op`. -/
  | reservedImmediate
deriving DecidableEq, Repr

/-- Format Z and format W: all of `imm` must be 0 (30_encoding.md R56). -/
def decodeZero (c : Command) (i : Instr) : Except DecodeError Instr :=
  if c.imm = 0#4 then .ok i else .error .reservedImmediate

/-- Format S: `imm[0]` = `sample`, `imm[3:1]` must be 0 (30_encoding.md R56, R58). -/
def decodeSample (c : Command) (f : Bool → Instr) : Except DecodeError Instr :=
  if c.imm.extractLsb' 1 3 = 0#3 then .ok (f (c.cw.getLsbD 0)) else .error .reservedImmediate

/-- Format F: `imm[2:0]` = `f`, `imm[3]` must be 0 (30_encoding.md R56, R58). -/
def decodeFace (c : Command) (f : BitVec 3 → Instr) : Except DecodeError Instr :=
  if c.imm.getLsbD 3 = false then .ok (f (c.cw.extractLsb' 0 3)) else .error .reservedImmediate

/-- The command a pair (`cw`, `wdata`) stands for (30_encoding.md R55 to R59); the 232 reserved words
are rejected by name (R61). `wdata` is read under PRNG.SET alone. -/
def decode (c : Command) : Except DecodeError Instr :=
  match c.op.toNat with
  | 0 => decodeZero c .nop
  | 1 => decodeZero c .prngNext
  | 2 => decodeZero c .prngJump
  | 3 => decodeZero c .prngLjump
  | 4 => decodeZero c .prngGet
  | 5 => decodeZero c (.prngSet c.wdata)
  | 6 => decodeSample c .debRead
  | 7 => decodeZero c .rollStart
  | 8 => decodeZero c .rollSlow
  | 9 => decodeZero c .rollUpdate
  | 10 => decodeFace c .ledPut
  | 11 => decodeZero c .ledBlink
  | 12 => decodeZero c .ledUnblink
  | 13 => decodeZero c .ledUpdate
  | 14 => decodeSample c .tick
  | _ => .error .reservedOpcode

/-- The command word of a command: its row's `match` with the operand in the low bits
(30_encoding.md R58, R59). -/
def encodeWord : Instr → Byte
  | .nop => 0x00#8
  | .prngNext => 0x10#8
  | .prngJump => 0x20#8
  | .prngLjump => 0x30#8
  | .prngGet => 0x40#8
  | .prngSet _ => 0x50#8
  | .debRead sample => 0x60#8 ||| (BitVec.ofBool sample).setWidth 8
  | .rollStart => 0x70#8
  | .rollSlow => 0x80#8
  | .rollUpdate => 0x90#8
  | .ledPut f => 0xA0#8 ||| f.setWidth 8
  | .ledBlink => 0xB0#8
  | .ledUnblink => 0xC0#8
  | .ledUpdate => 0xD0#8
  | .tick sample => 0xE0#8 ||| (BitVec.ofBool sample).setWidth 8

/-- The `wdata` that accompanies a command: PRNG.SET's operand; ignored by every other command, so 0
(30_encoding.md R55). -/
def encodeData : Instr → Block
  | .prngSet wdata => wdata
  | .nop | .prngNext | .prngJump | .prngLjump | .prngGet => 0#128
  | .debRead _ | .rollStart | .rollSlow | .rollUpdate => 0#128
  | .ledPut _ | .ledBlink | .ledUnblink | .ledUpdate | .tick _ => 0#128

/-- The pair (`cw`, `wdata`) that stands for a command. -/
def encode (i : Instr) : Command := ⟨encodeWord i, encodeData i⟩

/-- The pair whose bits are the low `nbits` of `w`, the bits above being 0: bits 7..0 are `cw` and
bits 135..8 are `wdata` (DESIGN CHOICE, log entry 13: the opcode table numbers `cw` only). -/
def tableCommand (nbits w : Nat) : Command :=
  ⟨BitVec.ofNat 8 (w % 2 ^ nbits), BitVec.ofNat 128 (w % 2 ^ nbits / 2 ^ 8)⟩

/-- The command the decoder reads from the instruction whose bits are `w` (`tableCommand`). -/
def decodeTableWord (nbits w : Nat) : Option Instr := (decode (tableCommand nbits w)).toOption

/-- The digits of a hexadecimal number, most significant first. -/
def hexDigits : Nat → Nat → List Char
  | 0, _ => []
  | n + 1, v => hexDigits n (v / 16) ++ [Nat.digitChar (v % 16)]

/-- One line of a listing (30_encoding.md R67): the mnemonic, and the operand of DEB.READ and TICK as
`0` or `1`, of LED.PUT as a decimal face, of PRNG.SET as `0x` and 32 digits. -/
def Instr.listing (i : Instr) : String :=
  match i with
  | .prngSet wdata => i.mnemonic ++ " 0x" ++ String.ofList (hexDigits 32 wdata.toNat)
  | .debRead sample => i.mnemonic ++ (if sample then " 1" else " 0")
  | .tick sample => i.mnemonic ++ (if sample then " 1" else " 0")
  | .ledPut f => i.mnemonic ++ " " ++ String.ofList [Nat.digitChar f.toNat]
  | .nop | .prngNext | .prngJump | .prngLjump | .prngGet => i.mnemonic
  | .rollStart | .rollSlow | .rollUpdate => i.mnemonic
  | .ledBlink | .ledUnblink | .ledUpdate => i.mnemonic

/-- `REPEAT n` with a body: the body written `n` times in a row (30_encoding.md R68). -/
def repeatCommands (n : Nat) (body : List Instr) : List Instr := (List.replicate n body).flatten

/-- `PRESS n` is `REPEAT n` of TICK 1 (30_encoding.md R68). -/
def pressCommands (n : Nat) : List Instr := repeatCommands n [.tick true]

/-- `RELEASE n` is `REPEAT n` of TICK 0 (30_encoding.md R68). -/
def releaseCommands (n : Nat) : List Instr := repeatCommands n [.tick false]

/-- `SEED (w0, w1, w2, w3)` is PRNG.SET of the tuple, `s[0]` first (30_encoding.md R67, R68;
20_memory.md R46). -/
def seedCommands (w0 w1 w2 w3 : Word) : List Instr := [.prngSet (w3 ++ w2 ++ w1 ++ w0)]

end Sys2Proof
end

