-- ==== Sys2Proof/Machine/Ops.lean ====
section
/-! DEFINITION. The operations that several commands share: one draw (40_prng.md R82), the write of
the response (30_encoding.md R60), the drive of the lines (43_led.md R150), RESET
(70_reset_and_hazards.md R210) and what the command port presents (30_encoding.md R55). There is no
exception to take and none to return from (60_exceptions.md R190, R195, R196). -/

namespace Sys2Proof.Machine

/-- `rotl32(x, k)` = `((x << k) | (x >> (32 - k))) mod 2^32` for 0 < k < 32 (00_scope.md R7). -/
def rotl32 (x : Word) (k : Nat) : Word := x <<< k ||| x >>> (32 - k)

/-- The 32-bit result of a draw, from the state before the update (40_prng.md R82, first line). -/
def PrngState.output (p : PrngState) : Word := rotl32 (p.s0 + p.s3) 7 + p.s0

/-- The state update of a draw (40_prng.md R82, the lines after the first, in order). -/
def PrngState.advance (p : PrngState) : PrngState :=
  let t := p.s1 <<< 9
  let s2 := p.s2 ^^^ p.s0
  let s3 := p.s3 ^^^ p.s1
  let s1 := p.s1 ^^^ s2
  let s0 := p.s0 ^^^ s3
  let s2 := s2 ^^^ t
  let s3 := rotl32 s3 11
  ⟨s0, s1, s2, s3⟩

/-- `call PRNG.NEXT`: the registers after one draw (40_prng.md R82, R90). -/
def State.draw (s : State) : State := { s with prng := s.prng.advance }

/-- The response of a command, written after its registers: `btn`, `deb` and `face` are copies of the
registers, `ill`, the event and `rdata` are the command's own results (30_encoding.md R60). -/
def State.respond (s : State) (ill : Bool) (event : RollEvent) (rdata : Block) : State :=
  { s with
    resp := some
      { ill := ill, btn := s.edge, deb := s.deb, face := s.face, event := event.code, rdata := rdata } }

/-- The response of a command that reports nothing of its own: `ill` = 0, NONE, `rdata` = 0
(30_encoding.md R60). -/
def State.respondPlain (s : State) : State := s.respond false .noEvent 0#128

/-- `emit(oe, lvl)`: drive the lines and append the drive to the log (43_led.md R150). -/
def State.emit (s : State) (d : Drive) : State :=
  { s with lineOe := d.oe, lineLvl := d.lvl, driveLog := s.driveLog ++ [d] }

/-- A reserved command word: no register changes, nothing is emitted, `ill` = 1, NONE, `rdata` = 0
(30_encoding.md R61; 60_exceptions.md R191). -/
def State.performReserved (s : State) : State := s.respond true .noEvent 0#128

/-- RESET (70_reset_and_hazards.md R210 to R212): every register of 10_state.md R33 at its reset
value, `s` a free value that may depend on what it held, the drive log empty, no response. The
configuration is not written (10_state.md R31); what the host presents afterwards stays its choice
(log entry 14). -/
def State.performReset (s : State) : State :=
  { State.reset with
    cfg := s.cfg
    prng := PrngState.ofBlock (Config.prngResetState (s.resets + 1) (some s.prng.toBlock))
    host := s.host
    resets := s.resets + 1 }

/-- What an idle command port carries: NOP, 0x00 (44_tick.md R176; DEDUCED, log entry 2). -/
def idleCommand : Command := ⟨0x00#8, 0#128⟩

/-- What the host does now: its next choice, or nothing, and then the port is idle (log entries 1, 2). -/
def State.presented (s : State) : HostAction := s.host.headD (.command idleCommand)

/-- The host has had its turn: its later choices remain. -/
def State.consumed (s : State) : State := { s with host := s.host.tail }

/-- The host presents a command next, before everything it was going to do. -/
def State.present (s : State) (c : Command) : State := { s with host := .command c :: s.host }

/-- The host presents a listing next, in order (30_encoding.md R67). -/
def State.presentAll (s : State) (is : List Instr) : State :=
  { s with host := is.map (fun i => HostAction.command (encode i)) ++ s.host }

end Sys2Proof.Machine
end

