-- ==== Sys2Proof/Machine/Debouncer.lean ====
section
/-! DEFINITION. The command of debouncer_shift_register (41_debouncer.md). -/

namespace Sys2Proof.Machine

/-- The three steps of a read, each on the result of the one before (41_debouncer.md R101). -/
def State.debRead (s : State) (sample : Bool) : State :=
  let hist := shiftIn s.hist sample
  let deb := hysteresis hist s.deb
  let edge := edgeStep s.edge deb
  { s with hist := hist, deb := deb, edge := edge }

/-- DEB.READ (41_debouncer.md R101). -/
def execDebRead (sample : Bool) (s : State) : Host.Outcome State Fault Refusal :=
  .next (s.debRead sample).respondPlain

end Sys2Proof.Machine
end

