-- ==== Sys2Proof/Machine/Led.lean ====
section
/-! DEFINITION. The commands of led_multiplex_driver (43_led.md). -/

namespace Sys2Proof.Machine

/-- LED.PUT: the pattern of a face, or nothing and a rejection for a face the table does not hold
(43_led.md R146). The Boolean is the rejection. -/
def State.ledPut (s : State) (f : BitVec 3) : Bool × State :=
  match faceLut f with
  | some pattern => (false, { s with pattern := pattern })
  | none => (true, s)

/-- LED.BLINK's writes (43_led.md R147). -/
def State.ledBlink (s : State) : State :=
  { s with blinkCount := blinkCountInit, blinkTimer := keep s.cfg.blinkTimerW s.cfg.blinkMax }

/-- LED.UNBLINK's writes (43_led.md R148). -/
def State.ledUnblink (s : State) : State := { s with blinkCount := 0#3, blinkTimer := 0 }

/-- `effective_pattern(p, c)`: suppressed when the count is odd, then the indicator bit
(43_led.md R152). -/
def effectivePattern (cfg : Config) (p : BitVec 6) (c : BitVec 3) : BitVec 6 :=
  (if c.getLsbD 0 then 0b000000#6 else p) ||| cfg.indicatorMask

/-- Step 1 of LED.UPDATE: advance, wrap at `NUM_ELEMENTS` (43_led.md R149). -/
def nextScan (cfg : Config) (scan : BitVec 3) : BitVec 3 :=
  if scan.toNat + 1 = cfg.numElements then 0#3 else scan + 1#3

/-- `signature(k)`: entry `k` of `SIG` as a drive; an index the table does not hold has none
(43_led.md R153; log entry 7). -/
def signature (cfg : Config) (k : BitVec 3) : Option Drive := (cfg.sig[k.toNat]?).map signatureDrive

/-- Step 5 of LED.UPDATE (43_led.md R151). -/
def State.blinkStep (s : State) : State :=
  if s.blinkCount = 0#3 then s
  else if s.blinkTimer = 0 then
    { s with blinkTimer := keep s.cfg.blinkTimerW s.cfg.blinkMax, blinkCount := s.blinkCount - 1#3 }
  else { s with blinkTimer := s.blinkTimer - 1 }

/-- Step 4 of LED.UPDATE: one segment is tested, and driven if its bit is set (43_led.md R149). -/
def State.driveSegment (s : State) (eff : BitVec 6) : State :=
  match signature s.cfg s.scan with
  | some d => if eff.getLsbD s.scan.toNat then s.emit d else s
  | none => s

/-- LED.UPDATE: advance the scan, form the effective pattern, float all three lines, test one segment,
step the blink (43_led.md R149). -/
def State.ledUpdate (s : State) : State :=
  let s := { s with scan := nextScan s.cfg s.scan }
  let eff := effectivePattern s.cfg s.pattern s.blinkCount
  ((s.emit .floating).driveSegment eff).blinkStep

/-- LED.PUT (43_led.md R146). -/
def execLedPut (f : BitVec 3) (s : State) : Host.Outcome State Fault Refusal :=
  .next ((s.ledPut f).2.respond (s.ledPut f).1 .noEvent 0#128)

/-- LED.BLINK (43_led.md R147). -/
def execLedBlink (s : State) : Host.Outcome State Fault Refusal := .next s.ledBlink.respondPlain

/-- LED.UNBLINK (43_led.md R148). -/
def execLedUnblink (s : State) : Host.Outcome State Fault Refusal := .next s.ledUnblink.respondPlain

/-- LED.UPDATE (43_led.md R149). -/
def execLedUpdate (s : State) : Host.Outcome State Fault Refusal := .next s.ledUpdate.respondPlain

end Sys2Proof.Machine
end

