-- ==== Sys2Proof/Machine/Prng.lean ====
section
/-! DEFINITION. The commands of prng_xoshiro_unit (40_prng.md). None touches a register outside `s`. -/

namespace Sys2Proof.Machine

/-- The exclusive or of two PRNG states, word by word (40_prng.md R83). -/
def PrngState.xor (a b : PrngState) : PrngState :=
  ⟨a.s0 ^^^ b.s0, a.s1 ^^^ b.s1, a.s2 ^^^ b.s2, a.s3 ^^^ b.s3⟩

/-- The all-zero state (10_state.md R12). -/
def PrngState.zero : PrngState := ⟨0#32, 0#32, 0#32, 0#32⟩

/-- The body of the jump's inner loop for one mask bit: the shadow state `a` and `s` after it
(40_prng.md R83). -/
def jumpBit (bit : Bool) (x : PrngState × PrngState) : PrngState × PrngState :=
  (if bit then x.1.xor x.2 else x.1, x.2.advance)

/-- The jump's inner loop: the bits 0..31 of one word of the mask (40_prng.md R83). -/
def jumpWord (x : PrngState × PrngState) (w : Word) : PrngState × PrngState :=
  (List.range 32).foldl (fun y b => jumpBit (w.getLsbD b) y) x

/-- `jump_with(K)`: word 0 first; the result is the shadow state (40_prng.md R83). -/
def jumpWith (k : List Word) (p : PrngState) : PrngState := (k.foldl jumpWord (.zero, p)).1

/-- PRNG.NEXT (40_prng.md R82). -/
def execPrngNext (s : State) : Host.Outcome State Fault Refusal :=
  .next (s.draw.respond false .noEvent (s.prng.output.setWidth 128))

/-- PRNG.JUMP (40_prng.md R84). -/
def execPrngJump (s : State) : Host.Outcome State Fault Refusal :=
  .next { s with prng := jumpWith jumpK s.prng }.respondPlain

/-- PRNG.LJUMP (40_prng.md R85). -/
def execPrngLjump (s : State) : Host.Outcome State Fault Refusal :=
  .next { s with prng := jumpWith ljumpK s.prng }.respondPlain

/-- PRNG.GET (40_prng.md R86). -/
def execPrngGet (s : State) : Host.Outcome State Fault Refusal :=
  .next (s.respond false .noEvent s.prng.toBlock)

/-- PRNG.SET: every 128-bit value is accepted, the all-zero value included (40_prng.md R87). -/
def execPrngSet (wdata : Block) (s : State) : Host.Outcome State Fault Refusal :=
  .next { s with prng := PrngState.ofBlock wdata }.respondPlain

end Sys2Proof.Machine
end

