-- ==== Sys2Proof/Machine/Roll.lean ====
section
/-! DEFINITION. The commands of roll_state_accumulator (42_roll.md). -/

namespace Sys2Proof.Machine

/-- ROLL.START's writes (42_roll.md R121); it does not look at the state it is in (R120). -/
def State.rollStart (s : State) : State :=
  { s with pressed := true, speed := keep s.cfg.speedW s.cfg.rollSpeed }

/-- ROLL.SLOW's writes: the draw of this moment picks the face (42_roll.md R122). -/
def State.rollSlow (s : State) : State :=
  let r := s.prng.output
  let s := { s with pressed := false }.draw
  { s with
    face := BitVec.ofNat 3 (r.toNat % numFaces)
    speed := keep s.cfg.speedW (s.cfg.rollSpeed >>> 1) }

/-- The last six lines of ROLL.UPDATE: accumulate, and on overflow past the period wrap the timer and
advance the face (42_roll.md R123). -/
def State.accumulate (s : State) : RollEvent × State :=
  let timer := keep s.cfg.timerW (s.timer + s.speed >>> s.cfg.speedPrec)
  if timer ≥ s.cfg.rollPeriod then
    (.roll,
      { s with
        timer := keep s.cfg.timerW (timer - s.cfg.rollPeriod)
        face := BitVec.ofNat 3 ((s.face.toNat + 1) % numFaces) })
  else (.noEvent, { s with timer := timer })

/-- The slowing lines of ROLL.UPDATE, taken when `pressed` = 0 and `speed` ≠ 0 (42_roll.md R123). -/
def State.slowDown (s : State) : RollEvent × State :=
  let s := { s with speed := keep s.cfg.speedW (s.speed - 1) }
  if s.speed = 0 then (.stop, s)
  else if s.cfg.slowAccumulates = false then (.noEvent, s)
  else s.accumulate

/-- The background draw of ROLL.UPDATE: its first two lines (42_roll.md R123 (a), R127). -/
def State.backgroundDraw (s : State) : State :=
  if s.pressed = false ∨ s.cfg.drawWhenPressed = true then s.draw else s

/-- ROLL.UPDATE: the event and the registers after it (42_roll.md R123). -/
def State.rollUpdate (s : State) : RollEvent × State :=
  let s := s.backgroundDraw
  if s.speed = 0 then (.noEvent, { s with timer := 0 })
  else if s.pressed = false then s.slowDown
  else s.accumulate

/-- ROLL.START (42_roll.md R121). -/
def execRollStart (s : State) : Host.Outcome State Fault Refusal :=
  .next s.rollStart.respondPlain

/-- ROLL.SLOW; the draw is not shown to the host (42_roll.md R122). -/
def execRollSlow (s : State) : Host.Outcome State Fault Refusal :=
  .next s.rollSlow.respondPlain

/-- ROLL.UPDATE; the event is in the response (42_roll.md R123). -/
def execRollUpdate (s : State) : Host.Outcome State Fault Refusal :=
  .next (s.rollUpdate.2.respond false s.rollUpdate.1 0#128)

end Sys2Proof.Machine
end

