-- ==== Sys2Proof/Machine/Tick.lean ====
section
/-! DEFINITION. NOP and TICK (44_tick.md). -/

namespace Sys2Proof.Machine

/-- The second and third line of TICK: DOWN_EDGE calls ROLL.START, UP_EDGE calls ROLL.SLOW
(44_tick.md R177 (a)). -/
def State.feedEdge (s : State) : State :=
  match ButtonState.ofCode s.edge with
  | .downEdge => s.rollStart
  | .upEdge => s.rollSlow
  | .up => s
  | .down => s

/-- The fifth line of TICK: STOP starts the finish-blink (44_tick.md R177 (b)). -/
def State.feedEvent (s : State) (e : RollEvent) : State :=
  match e with
  | .stop => s.ledBlink
  | .roll => s
  | .noEvent => s

/-- TICK: the event and the registers after the whole sequence (44_tick.md R177). -/
def State.tick (s : State) (sample : Bool) : RollEvent × State :=
  let s := (s.debRead sample).feedEdge
  let u := s.rollUpdate
  let s := u.2.feedEvent u.1
  (u.1, (s.ledPut s.face).2.ledUpdate)

/-- NOP: no register is read or written (44_tick.md R176). -/
def execNop (s : State) : Host.Outcome State Fault Refusal := .next s.respondPlain

/-- TICK; `resp.ill` = 0 always (44_tick.md R177; log entry 6). -/
def execTick (sample : Bool) (s : State) : Host.Outcome State Fault Refusal :=
  .next ((s.tick sample).2.respond false (s.tick sample).1 0#128)

end Sys2Proof.Machine
end

