-- ==== Sys2Proof/Machine/Dispatch.lean ====
section
/-! DEFINITION. One arm per command: each is one direct call of the command's meaning. -/

namespace Sys2Proof.Machine

/-- What performing a command does: 30_encoding.md R59, last column. -/
def exec (i : Instr) (s : State) : Host.Outcome State Fault Refusal :=
  match i with
  | .nop => Sys2Proof.Machine.execNop s
  | .prngNext => Sys2Proof.Machine.execPrngNext s
  | .prngJump => Sys2Proof.Machine.execPrngJump s
  | .prngLjump => Sys2Proof.Machine.execPrngLjump s
  | .prngGet => Sys2Proof.Machine.execPrngGet s
  | .prngSet wdata => Sys2Proof.Machine.execPrngSet wdata s
  | .debRead sample => Sys2Proof.Machine.execDebRead sample s
  | .rollStart => Sys2Proof.Machine.execRollStart s
  | .rollSlow => Sys2Proof.Machine.execRollSlow s
  | .rollUpdate => Sys2Proof.Machine.execRollUpdate s
  | .ledPut f => Sys2Proof.Machine.execLedPut f s
  | .ledBlink => Sys2Proof.Machine.execLedBlink s
  | .ledUnblink => Sys2Proof.Machine.execLedUnblink s
  | .ledUpdate => Sys2Proof.Machine.execLedUpdate s
  | .tick sample => Sys2Proof.Machine.execTick sample s

end Sys2Proof.Machine
end

