-- ==== Sys2Proof/WellFormed.lean ====
section
/-! DEFINITION. The two checks of the spec on what is written down outside the machine: the
must-be-zero bits of a command word (30_encoding.md R56, R61) and the constraints on a configuration
(00_scope.md R5). A term of `Instr` needs no check: its operand types admit just the encodable
values. -/

namespace Sys2Proof

/-- The four command formats of 30_encoding.md R56. -/
inductive Format where
  | z
  | w
  | s
  | f
deriving DecidableEq, Repr

/-- The format of each opcode (30_encoding.md R56, R59); 0xF has none. -/
def formatOf (op : BitVec 4) : Option Format :=
  if op = 0xF#4 then none
  else if op = 0x5#4 then some .w
  else if op = 0x6#4 ∨ op = 0xE#4 then some .s
  else if op = 0xA#4 then some .f
  else some .z

/-- The must-be-zero bits of `imm` in a format are zero (30_encoding.md R56). -/
def Format.immOk : Format → BitVec 4 → Bool
  | .z, imm => imm == 0#4
  | .w, imm => imm == 0#4
  | .s, imm => imm.extractLsb' 1 3 == 0#3
  | .f, imm => imm.getLsbD 3 == false

/-- The command word is not reserved (30_encoding.md R61). -/
def Command.wellFormed (c : Command) : Bool :=
  match formatOf c.op with
  | none => false
  | some fmt => fmt.immOk c.imm

/-- `NUM_ELEMENTS` is 5 or 6. -/
def Config.elementsOk (c : Config) : Bool := c.numElements == 5 || c.numElements == 6

/-- `INDICATOR_MASK` has at most one bit set, at an index below `NUM_ELEMENTS`. -/
def Config.indicatorOk (c : Config) : Bool :=
  c.indicatorMask == 0#6 || (List.range c.numElements).any fun k => c.indicatorMask == 1#6 <<< k

/-- The anode differs from the cathode in each pair of `SIG`. -/
def Config.sigPairsOk (c : Config) : Bool := c.sig.toList.all fun p => p.anode != p.cathode

/-- The pairs of the indices 0..`NUM_ELEMENTS`-1 are pairwise different. -/
def Config.sigDistinctOk (c : Config) : Bool := decide (c.sig.toList.take c.numElements).Nodup

/-- 0 ≤ `SPEED_PREC` < `SPEED_W`. -/
def Config.precOk (c : Config) : Bool := decide (c.speedPrec < c.speedW)

/-- 2 ≤ `ROLL_SPEED` < 2^`SPEED_W`. -/
def Config.speedOk (c : Config) : Bool := decide (2 ≤ c.rollSpeed) && decide (c.rollSpeed < 2 ^ c.speedW)

/-- The three constraints on `ROLL_PERIOD`. -/
def Config.periodOk (c : Config) : Bool :=
  decide (1 ≤ c.rollPeriod) && decide (c.rollSpeed >>> c.speedPrec ≤ c.rollPeriod) &&
    decide (c.rollPeriod + (c.rollSpeed >>> c.speedPrec) ≤ 2 ^ c.timerW)

/-- `SPEED_W` ≥ 2, `TIMER_W` ≥ 1, `BLINK_TIMER_W` ≥ 1. -/
def Config.widthsOk (c : Config) : Bool :=
  decide (2 ≤ c.speedW) && decide (1 ≤ c.timerW) && decide (1 ≤ c.blinkTimerW)

/-- 0 ≤ `BLINK_MAX` < 2^`BLINK_TIMER_W`. -/
def Config.blinkOk (c : Config) : Bool := decide (c.blinkMax < 2 ^ c.blinkTimerW)

/-- Every constraint of 00_scope.md R5. A configuration that breaks one is refused
(93_implementation_defined.md U7): `Machine.step` does so. -/
def Config.wellFormed (c : Config) : Bool :=
  c.elementsOk && c.indicatorOk && c.sigPairsOk && c.sigDistinctOk && c.precOk && c.speedOk &&
    c.periodOk && c.widthsOk && c.blinkOk

end Sys2Proof
end

