-- ==== Sys2Proof/Machine/Step.lean ====
section
/-! DEFINITION. One step: what the host does now (30_encoding.md R55; 70_reset_and_hazards.md R210). -/

namespace Sys2Proof.Machine

/-- One step. A configuration outside the constraints is refused (93_implementation_defined.md U7).
Otherwise the host's next choice happens: RESET, or a command, whose word either names a command of
the opcode map or is reserved (30_encoding.md R61). -/
def step (s : State) : Host.Outcome State Fault Refusal :=
  if s.cfg.wellFormed then
    match s.presented with
    | .reset => .next s.consumed.performReset
    | .command c =>
      match decode c with
      | .ok i => exec i s.consumed
      | .error _ => .next s.consumed.performReserved
  else .refused .invalidConfiguration

/-- The host presents, next, the command whose bits are the low `nbits` of `w` (log entries 1, 13). -/
def State.withFetchWord (s : State) (nbits w : Nat) : State := s.present (tableCommand nbits w)

end Sys2Proof.Machine
end

