-- ==== Sys2Proof/Safety.lean ====
section
/-! DEFINITION. What counts as a safe run, in the terms the statements use: the invariants of each
unit (10_state.md R16, R21, R28; 43_led.md R154), several commands performed in a row (20_memory.md
R48), and the sum that a jump mask stands for (40_prng.md R83, R89). -/

namespace Sys2Proof.Machine

/-- Commands performed one after another, each on the state the one before left (20_memory.md R48). -/
def performAll : List Instr → State → Host.Outcome State Fault Refusal
  | [], s => .next s
  | i :: is, s =>
    match exec i s with
    | .next t => performAll is t
    | .fault r => .fault r
    | .refused r => .refused r

/-- The event of the last response (30_encoding.md R60, R63). -/
def State.lastEvent (s : State) : Option (BitVec 2) := s.resp.map Response.event

/-- The response of a command that reports nothing of its own, on the given register values. -/
def quietResponse (edge : BitVec 2) (deb : Bool) (face : BitVec 3) : Response :=
  { ill := false, btn := edge, deb := deb, face := face, event := 0b00#2, rdata := 0#128 }

/-- The exclusive or of the states reached by `n` draws, over the set bits `n` of a 128-bit mask: the
polynomial in the state map that a jump mask stands for (40_prng.md R83, R89). -/
def maskedSum (mask : BitVec 128) (p : PrngState) : PrngState :=
  ((List.range 128).filter fun n => mask.getLsbD n).foldl
    (fun acc n => acc.xor (PrngState.advance^[n] p)) .zero

/-- 10_state.md R16. -/
structure DebouncerInvariant (s : State) : Prop where
  /-- (a) `edge[0]` = `deb`. -/
  edgeIsTagged : s.edge.getLsbD 0 = s.deb
  /-- (b) on an all-set history. -/
  allSet : s.hist = 0xFF#8 → s.deb = true
  /-- (b) on an all-clear history. -/
  allClear : s.hist = 0x00#8 → s.deb = false
  /-- (c) DOWN_EDGE. -/
  downEdge : s.edge = ButtonState.downEdge.code → s.hist = 0xFF#8
  /-- (c) UP_EDGE. -/
  upEdge : s.edge = ButtonState.upEdge.code → s.hist = 0x00#8

/-- 10_state.md R21. -/
structure RollInvariant (s : State) : Prop where
  /-- (a) `face` ≤ 5. -/
  faceOk : s.face.toNat ≤ 5
  /-- (b) `timer` < `ROLL_PERIOD`. -/
  timerOk : s.timer < s.cfg.rollPeriod
  /-- (c) while pressed. -/
  pressedOk : s.pressed = true → s.speed = s.cfg.rollSpeed
  /-- (d) while not pressed. -/
  releasedOk : s.pressed = false → s.speed ≤ s.cfg.rollSpeed >>> 1

/-- 10_state.md R28, with (e) in the sharper form of 43_led.md R154 (a): the lines carry the signature
of just the segment `scan`. -/
structure LedInvariant (s : State) : Prop where
  /-- (a) `pattern` is 0 or a `FACE_LUT` value. -/
  patternOk : s.pattern = 0b000000#6 ∨ ∃ f, faceLut f = some s.pattern
  /-- (b) `blink_count` ≤ 5. -/
  countOk : s.blinkCount.toNat ≤ 5
  /-- (c) `blink_timer` ≤ `BLINK_MAX`. -/
  timerOk : s.blinkTimer ≤ s.cfg.blinkMax
  /-- (d) `scan` < `NUM_ELEMENTS`. -/
  scanOk : s.scan.toNat < s.cfg.numElements
  /-- (e) all floating, or the signature of the segment `scan`. -/
  linesOk : Drive.mk s.lineOe s.lineLvl = Drive.floating ∨
    signature s.cfg s.scan = some (Drive.mk s.lineOe s.lineLvl)

/-- Every drive of a log that is not all floating is directly preceded by one that is; `before` says
that the drive before the first one is (43_led.md R154 (b)). -/
def floatsPrecede : Bool → List Drive → Bool
  | _, [] => true
  | before, d :: ds => (before || d == Drive.floating) && floatsPrecede (d == Drive.floating) ds

/-- 43_led.md R150 and R154 (b): the log never holds a signature without a float directly before it,
and the lines hold the last drive of the log (all floating while the log is empty,
70_reset_and_hazards.md R211). -/
structure DriveLogInvariant (s : State) : Prop where
  floatFirst : floatsPrecede false s.driveLog = true
  lastDrive : s.driveLog.getLastD Drive.floating = Drive.mk s.lineOe s.lineLvl

end Sys2Proof.Machine
end

