-- ==== Sys2Proof/Certificates/Slice0/Obligations.lean ====
section
/-! DEFINITION. The statements for the provers. A statement whose docstring names a log entry or calls
itself the model's choice rests on it for the clause it names; the others formalise the rules they
cite. -/

open Sys2Proof Sys2Proof.Machine

/-! ### Decoding (30_encoding.md) -/

/-- Decode and encode agree in both directions: a presented pair decodes to `i` exactly when its
command word is the encoding of `i` and, for PRNG.SET, its data is the operand; under every other
command the data is ignored (30_encoding.md sections 1 to 3). -/
def Obligations.DecodeAcceptsExactlyTheEncodings : Prop :=
  ∀ (c : Command) (i : Instr),
    decode c = .ok i ↔ c.cw = encodeWord i ∧ ∀ w, i = .prngSet w → c.wdata = w

/-- R59: a word decodes exactly when it selects a row of the opcode map, to a command of that row;
no word selects two rows; and the words that select a row are the 24 listed. -/
def Obligations.DecodeFollowsTheOpcodeMap : Prop :=
  (∀ (c : Command) (r : OpcodeRow), r ∈ opcodeMap → r.selects c.cw = true →
    ∃ i, decode c = .ok i ∧ i.mnemonic = r.mnemonic) ∧
  (∀ (c : Command) (i : Instr), decode c = .ok i →
    ∃ r ∈ opcodeMap, r.selects c.cw = true ∧ r.mnemonic = i.mnemonic) ∧
  (∀ (cw : Byte) (r q : OpcodeRow), r ∈ opcodeMap → q ∈ opcodeMap →
    r.selects cw = true → q.selects cw = true → r = q) ∧
  (∀ cw : Byte, (∃ r ∈ opcodeMap, r.selects cw = true) ↔
    cw.toNat ∈ [0x00, 0x10, 0x20, 0x30, 0x40, 0x50, 0x60, 0x61, 0x70, 0x80, 0x90, 0xA0, 0xA1, 0xA2,
      0xA3, 0xA4, 0xA5, 0xA6, 0xA7, 0xB0, 0xC0, 0xD0, 0xE0, 0xE1])

/-- R58: `sample` = `cw[0]`, `f` = `cw[2:0]`, and `wdata` is split as `s[i]` = `wdata[32i+31:32i]`;
no other command has an operand, which its constructor says. -/
def Obligations.OperandsAreTheLowBits : Prop :=
  (∀ (c : Command) (x : Bool), decode c = .ok (.debRead x) → x = c.cw.getLsbD 0) ∧
  (∀ (c : Command) (x : Bool), decode c = .ok (.tick x) → x = c.cw.getLsbD 0) ∧
  (∀ (c : Command) (f : BitVec 3), decode c = .ok (.ledPut f) → f = c.cw.extractLsb' 0 3) ∧
  (∀ (c : Command) (w : Block) (s : State), decode c = .ok (.prngSet w) →
    ∃ t, exec (.prngSet w) s = .next t ∧
      t.prng.s0 = c.wdata.extractLsb' 0 32 ∧ t.prng.s1 = c.wdata.extractLsb' 32 32 ∧
      t.prng.s2 = c.wdata.extractLsb' 64 32 ∧ t.prng.s3 = c.wdata.extractLsb' 96 32)

/-- Words written out from 95_test_vectors.md V5.1 decode to the commands they stand for. -/
def Obligations.WrittenOutWordsDecode : Prop :=
  decode ⟨0b00000000#8, 0#128⟩ = .ok .nop ∧
  decode ⟨0b00010000#8, 0#128⟩ = .ok .prngNext ∧
  decode ⟨0b01100001#8, 0#128⟩ = .ok (.debRead true) ∧
  decode ⟨0b10000000#8, 0#128⟩ = .ok .rollSlow ∧
  decode ⟨0b10100101#8, 0#128⟩ = .ok (.ledPut 5#3) ∧
  decode ⟨0b11100000#8, 0#128⟩ = .ok (.tick false) ∧
  decode ⟨0b01010000#8, 7#128⟩ = .ok (.prngSet 7#128) ∧
  decode ⟨0b11110000#8, 0#128⟩ = .error .reservedOpcode ∧
  decode ⟨0b01100010#8, 0#128⟩ = .error .reservedImmediate

/-! ### The step (the host's choices: log entries 1 and 2) -/

/-- A step runs the decoded command: where the host presents a word that decodes to `i`, the step is
`exec i` after the host's choice is taken off what it still presents. That the host's choices stand in
the state is the model's (log entry 1). -/
def Obligations.StepRunsTheDecodedCommand : Prop :=
  ∀ (s : State) (c : Command) (rest : List HostAction) (i : Instr),
    s.cfg.wellFormed = true → s.host = .command c :: rest → decode c = .ok i →
    step s = exec i { s with host := rest }

/-- R61: a word that selects no row changes no register, emits nothing, and answers `ill` = 1, NONE,
`rdata` = 0, the register copies as they are. -/
def Obligations.ReservedWordOnlySetsIll : Prop :=
  ∀ (s : State) (c : Command) (rest : List HostAction),
    s.cfg.wellFormed = true → s.host = .command c :: rest →
    (∀ r ∈ opcodeMap, r.selects c.cw = false) →
    step s = .next { s with
      host := rest
      resp := some { ill := true, btn := s.edge, deb := s.deb, face := s.face, event := 0b00#2, rdata := 0#128 } }

/-- The model's choice (log entry 2, from the words "the value an idle command port carries" of
44_tick.md section 1): where the host presents nothing, the step is that of NOP. -/
def Obligations.IdlePortPerformsNop : Prop :=
  ∀ s : State, s.cfg.wellFormed = true → s.host = [] → step s = exec .nop s

/-- The check on a configuration accepts it exactly when it meets every constraint of 00_scope.md R5.
That one which breaks a constraint is refused by the step, whatever the host presents, is the model's
choice (log entry 5, after 93_implementation_defined.md U7). -/
def Obligations.IllFormedConfigurationIsRefused : Prop :=
  (∀ c : Config, c.wellFormed = true ↔
    (c.numElements = 5 ∨ c.numElements = 6) ∧
    (∀ j : Nat, c.indicatorMask.getLsbD j = true → j < c.numElements) ∧
    (∀ j k : Nat, c.indicatorMask.getLsbD j = true → c.indicatorMask.getLsbD k = true → j = k) ∧
    (∀ k : Fin 6, c.sig[k].anode ≠ c.sig[k].cathode) ∧
    (∀ j k : Fin 6, j.val < c.numElements → k.val < c.numElements → j ≠ k → c.sig[j] ≠ c.sig[k]) ∧
    c.speedPrec < c.speedW ∧
    2 ≤ c.rollSpeed ∧ c.rollSpeed < 2 ^ c.speedW ∧
    1 ≤ c.rollPeriod ∧ c.rollSpeed / 2 ^ c.speedPrec ≤ c.rollPeriod ∧
    c.rollPeriod + c.rollSpeed / 2 ^ c.speedPrec ≤ 2 ^ c.timerW ∧
    2 ≤ c.speedW ∧ 1 ≤ c.timerW ∧ 1 ≤ c.blinkTimerW ∧
    c.blinkMax < 2 ^ c.blinkTimerW) ∧
  ∀ s : State, s.cfg.wellFormed = false → step s = .refused .invalidConfiguration

/-- R190: every command, on every state and operand, ends in one next state with one response; and so
does the step at which the host presents a command word, under every configuration that meets the
constraints. -/
def Obligations.EveryCommandCompletes : Prop :=
  (∀ (i : Instr) (s : State), ∃ t r, exec i s = .next t ∧ t.resp = some r) ∧
  (∀ (s : State) (c : Command) (rest : List HostAction),
    s.cfg.wellFormed = true → s.host = .command c :: rest →
    ∃ t r, step s = .next t ∧ t.resp = some r)

/-- Every step of a machine whose configuration meets the constraints answers a next state, with one
response unless it is RESET. That a step with nothing presented has the response of NOP is the model's
choice (log entry 2), and so is that RESET is a choice of the host (log entries 1 and 14). -/
def Obligations.EveryStepOfALegalConfigurationAnswers : Prop :=
  ∀ s : State, s.cfg.wellFormed = true → ∃ t, step s = .next t ∧
    (s.presented ≠ .reset → ∃ r, t.resp = some r)

/-- A step takes exactly one of the host's choices and writes no configuration (20_memory.md section
5; 10_state.md section 7). That both are fields of the state is the model's (log entries 1, 4). -/
def Obligations.StepTakesOneChoiceAndKeepsTheConfiguration : Prop :=
  ∀ s t : State, step s = .next t → t.host = s.host.tail ∧ t.cfg = s.cfg

/-- The response of every command: the register copies are those after the command; `ill` is set for
LED.PUT 6 and 7 alone; an event is reported by ROLL.UPDATE and TICK alone and is never 0b11; `rdata`
is the draw of PRNG.NEXT, the state of PRNG.GET, and 0 for every other command (30_encoding.md
sections 5 and 6). -/
def Obligations.ResponseOfEveryCommand : Prop :=
  ∀ (i : Instr) (s t : State), exec i s = .next t → ∃ r, t.resp = some r ∧
    r.btn = t.edge ∧ r.deb = t.deb ∧ r.face = t.face ∧
    (r.ill = true ↔ ∃ f : BitVec 3, i = .ledPut f ∧ 6 ≤ f.toNat) ∧
    r.event ≠ 0b11#2 ∧
    (r.event ≠ 0b00#2 → i = .rollUpdate ∨ ∃ x, i = .tick x) ∧
    (i = .prngNext → r.rdata = s.prng.output.setWidth 128) ∧
    (i = .prngGet → r.rdata = s.prng.s3 ++ s.prng.s2 ++ s.prng.s1 ++ s.prng.s0) ∧
    (i ≠ .prngNext → i ≠ .prngGet → r.rdata = 0#128)

/-! ### RESET (70_reset_and_hazards.md section 1) -/

/-- R33: the registers of the state after power-on; nothing is said of `s`, which R33 leaves
unspecified. -/
def Obligations.ResetStateHoldsTheResetValues : Prop :=
  State.reset.hist = 0x00#8 ∧ State.reset.deb = false ∧ State.reset.edge = 0b00#2 ∧
  State.reset.pressed = false ∧ State.reset.speed = 0 ∧ State.reset.timer = 0 ∧
  State.reset.face = 0#3 ∧ State.reset.pattern = 0b000000#6 ∧ State.reset.blinkCount = 0#3 ∧
  State.reset.blinkTimer = 0 ∧ State.reset.scan = 0#3 ∧ State.reset.lineOe = 0b000#3 ∧
  State.reset.lineLvl = 0b000#3

/-- R210: RESET between two commands puts every specified register at its reset value, whatever the
registers held; the drive log is empty and there is no response (R211). Nothing is said of `s`. -/
def Obligations.ResetEventRestoresTheResetValues : Prop :=
  ∀ (s : State) (rest : List HostAction), s.cfg.wellFormed = true → s.host = .reset :: rest →
    ∃ t, step s = .next t ∧
      t.hist = 0x00#8 ∧ t.deb = false ∧ t.edge = ButtonState.up.code ∧ t.pressed = false ∧
      t.speed = 0 ∧ t.timer = 0 ∧ t.face = 0#3 ∧ t.pattern = 0b000000#6 ∧ t.blinkCount = 0#3 ∧
      t.blinkTimer = 0 ∧ t.scan = 0#3 ∧ t.lineOe = 0b000#3 ∧ t.lineLvl = 0b000#3 ∧
      t.rollMode = some .idle ∧ t.driveLog = [] ∧ t.resp = none

/-- The model's choice (log entries 3, 4 and 14): RESET writes no configuration, leaves the host its
later choices, and counts for the free value of `s`. -/
def Obligations.ResetEventKeepsTheModelsOwnFields : Prop :=
  ∀ (s t : State) (rest : List HostAction), s.host = .reset :: rest → step s = .next t →
    t.cfg = s.cfg ∧ t.host = rest ∧ t.resets = s.resets + 1

/-- The invariants of every unit hold of the state after power-on, and its configuration meets the
constraints. That this state carries the defaults of 00_scope.md R5 is the model's choice (log entry
4). -/
def Obligations.ResetStateMeetsTheInvariants : Prop :=
  State.reset.cfg.wellFormed = true ∧ DebouncerInvariant State.reset ∧ RollInvariant State.reset ∧
    LedInvariant State.reset ∧ DriveLogInvariant State.reset

/-! ### Invariants (10_state.md R16, R21, R28; 43_led.md R154) -/

/-- Every step keeps the debouncer's invariants (10_state.md section 3, marked derived there). -/
def Obligations.StepKeepsTheDebouncerInvariant : Prop :=
  ∀ s t : State, DebouncerInvariant s → step s = .next t → DebouncerInvariant t

/-- Every step keeps the roll engine's invariants, for every configuration that meets the constraints
(10_state.md section 4, marked derived there). -/
def Obligations.StepKeepsTheRollInvariant : Prop :=
  ∀ s t : State, RollInvariant s → step s = .next t → RollInvariant t

/-- Every step keeps the LED driver's invariants, the signature on the lines being that of the segment
`scan` (10_state.md section 5 and 43_led.md section 4, marked derived there). -/
def Obligations.StepKeepsTheLedInvariant : Prop :=
  ∀ s t : State, LedInvariant s → step s = .next t → LedInvariant t

/-- Every step keeps the drive log's invariant: no signature without an all-floating drive directly
before it, and the lines hold the last drive (43_led.md section 4, marked derived there). -/
def Obligations.StepKeepsAFloatBeforeEverySignature : Prop :=
  ∀ s t : State, DriveLogInvariant s → step s = .next t → DriveLogInvariant t

/-- Under the invariants the three registers of parametric width stay within their widths. That they
are held as natural numbers is the model's (log entry 9). -/
def Obligations.RegistersStayWithinTheirWidths : Prop :=
  ∀ s : State, s.cfg.wellFormed = true → RollInvariant s → LedInvariant s →
    s.speed < 2 ^ s.cfg.speedW ∧ s.timer < 2 ^ s.cfg.timerW ∧ s.blinkTimer < 2 ^ s.cfg.blinkTimerW

/-- Under the invariant the lines are all floating or carry the signature of exactly one segment: two
lines driven, one of them high (10_state.md section 5, marked derived there). -/
def Obligations.LinesCarryAtMostOneSegment : Prop :=
  ∀ s : State, s.cfg.wellFormed = true → LedInvariant s →
    (s.lineOe = 0b000#3 ∧ s.lineLvl = 0b000#3) ∨
    ((∃! k : BitVec 3, k.toNat < s.cfg.numElements ∧
        signature s.cfg k = some (Drive.mk s.lineOe s.lineLvl)) ∧
      ∃ a c l : Fin 3, a ≠ c ∧ l ≠ a ∧ l ≠ c ∧
        (Drive.mk s.lineOe s.lineLvl).line a = .high ∧
        (Drive.mk s.lineOe s.lineLvl).line c = .low ∧
        (Drive.mk s.lineOe s.lineLvl).line l = .floating)

/-! ### prng_xoshiro_unit (40_prng.md) -/

/-- R82: PRNG.NEXT in terms of the old words: the draw of the state before the update, the four new
words, and nothing else. -/
def Obligations.PrngNextDrawsAndUpdates : Prop :=
  ∀ (a b c d : Word) (s : State), s.prng = ⟨a, b, c, d⟩ →
    exec .prngNext s = .next { s with
      prng := ⟨a ^^^ b ^^^ d, a ^^^ b ^^^ c, a ^^^ c ^^^ (b <<< 9), (b ^^^ d).rotateLeft 11⟩
      resp := some { quietResponse s.edge s.deb s.face with
        rdata := ((a + d).rotateLeft 7 + a).setWidth 128 } }

/-- R83 with the tables of R44 and R45: a jump replaces the state by the sum of the states reached by
`n` draws over the set bits `n` of its mask, word 0 and bit 0 first. -/
def Obligations.JumpsSumTheMaskedDraws : Prop :=
  ∀ s : State,
    exec .prngJump s = .next { s with
      prng := maskedSum 0x77f2db5b6fa035c3f542d2d38764000b#128 s.prng
      resp := some (quietResponse s.edge s.deb s.face) } ∧
    exec .prngLjump s = .next { s with
      prng := maskedSum 0x1c580662ccf5a0ef0b6f099fb523952e#128 s.prng
      resp := some (quietResponse s.edge s.deb s.face) }

/-- R84: the state after PRNG.JUMP equals the state after 2^64 PRNG.NEXT commands from the same start;
no other register changes and `rdata` is 0. `n` is that number, bounded from both sides so that no
tool writes out that many commands. -/
def Obligations.PrngJumpIsTwoToTheSixtyFourDraws : Prop :=
  ∀ (s : State) (n : Nat), 2 ^ 64 ≤ n → n ≤ 2 ^ 64 →
    ∃ t, performAll (List.replicate n .prngNext) s = .next t ∧
      exec .prngJump s = .next { s with
        prng := t.prng, resp := some (quietResponse s.edge s.deb s.face) }

/-- R85: the state after PRNG.LJUMP equals the state after 2^96 PRNG.NEXT commands from the same
start; no other register changes and `rdata` is 0. `n` is that number, as above. -/
def Obligations.PrngLjumpIsTwoToTheNinetySixDraws : Prop :=
  ∀ (s : State) (n : Nat), 2 ^ 96 ≤ n → n ≤ 2 ^ 96 →
    ∃ t, performAll (List.replicate n .prngNext) s = .next t ∧
      exec .prngLjump s = .next { s with
        prng := t.prng, resp := some (quietResponse s.edge s.deb s.face) }

/-- R86: PRNG.GET answers the four words, `s[3]` on top, and changes nothing. -/
def Obligations.PrngGetReturnsTheState : Prop :=
  ∀ (a b c d : Word) (s : State), s.prng = ⟨a, b, c, d⟩ →
    exec .prngGet s = .next { s with
      resp := some { quietResponse s.edge s.deb s.face with rdata := d ++ c ++ b ++ a } }

/-- R87: PRNG.SET writes `s[i]` = `wdata[32i+31:32i]`, every value accepted, and nothing else. -/
def Obligations.PrngSetWritesTheState : Prop :=
  ∀ (w : Block) (s : State),
    exec (.prngSet w) s = .next { s with
      prng := ⟨w.extractLsb' 0 32, w.extractLsb' 32 32, w.extractLsb' 64 32, w.extractLsb' 96 32⟩
      resp := some (quietResponse s.edge s.deb s.face) }

/-- PRNG.SET followed at once by PRNG.GET returns the data unchanged (40_prng.md section 4, marked
derived there). -/
def Obligations.SetThenGetReturnsTheData : Prop :=
  ∀ (w : Block) (s : State), ∃ t r, performAll [.prngSet w, .prngGet] s = .next t ∧
    t.resp = some r ∧ r.rdata = w

/-- R46: the state block is little-endian throughout: byte `j` is byte `j mod 4` of `s[j / 4]`, and
the 16 bytes determine the block. -/
def Obligations.StateBlockIsLittleEndian : Prop :=
  (∀ (p : PrngState) (j : Fin 16),
    (blockBytes p.toBlock)[j.val]? =
      some (([p.s0, p.s1, p.s2, p.s3].getD (j.val / 4) 0#32).extractLsb' (8 * (j.val % 4)) 8)) ∧
  ∀ w : Block, (blockBytes w).length = 16 ∧ blockOfBytes (blockBytes w) = w

/-- The state update of a draw is linear over GF(2) and a bijection on states (40_prng.md section 5,
marked derived there). -/
def Obligations.DrawIsALinearBijection : Prop :=
  (∀ p q : PrngState, (p.xor q).advance = p.advance.xor q.advance) ∧
    Function.Bijective PrngState.advance

/-- The all-zero state is a fixed point of every draw and of both jumps, PRNG.NEXT then answers 0 and
ROLL.SLOW sets `face` to 0 (40_prng.md section 5, marked derived there). -/
def Obligations.AllZeroStateIsAFixedPoint : Prop :=
  ∀ s : State, s.prng = .zero →
    (∀ i t, exec i s = .next t → (∀ w, i ≠ .prngSet w) → t.prng = .zero) ∧
    (∀ t, exec .prngNext s = .next t → ∃ r, t.resp = some r ∧ r.rdata = 0#128) ∧
    (∀ t, exec .rollSlow s = .next t → t.face = 0#3)

/-- No command but PRNG.SET of the all-zero block turns a non-zero state into the all-zero one, the
jumps and TICK included (10_state.md section 2 and 40_prng.md section 5, marked derived there). -/
def Obligations.NoOtherCommandMakesTheStateAllZero : Prop :=
  ∀ (i : Instr) (s t : State), exec i s = .next t → s.prng ≠ .zero → i ≠ .prngSet 0#128 →
    t.prng ≠ .zero

/-- R90: PRNG.NEXT and ROLL.SLOW draw once, ROLL.UPDATE once when its condition holds; the jumps and
PRNG.SET write `s` by their own rules, TICK through its sub-steps; no other command writes `s`. -/
def Obligations.OnlyTheseCommandsWriteThePrng : Prop :=
  ∀ (i : Instr) (s t : State), exec i s = .next t →
    (i = .prngNext ∨ i = .rollSlow → t.prng = s.prng.advance) ∧
    (i = .rollUpdate → t.prng =
      if s.pressed = false ∨ s.cfg.drawWhenPressed = true then s.prng.advance else s.prng) ∧
    (t.prng ≠ s.prng → i = .prngNext ∨ i = .prngJump ∨ i = .prngLjump ∨ (∃ w, i = .prngSet w) ∨
      i = .rollSlow ∨ i = .rollUpdate ∨ ∃ x, i = .tick x)

/-! ### debouncer_shift_register (41_debouncer.md) -/

/-- R101 to R104: the sample enters the history at bit 0 and bit 7 is dropped; the flag follows the
new history when it is uniform; the flag's previous bit moves up in the edge register; nothing else
changes. -/
def Obligations.DebReadShiftsFiltersAndTags : Prop :=
  ∀ (x : Bool) (s : State) (h : BitVec 8) (d : Bool) (e : BitVec 2),
    h = s.hist.extractLsb' 0 7 ++ BitVec.ofBool x →
    d = (if h = BitVec.allOnes 8 then true else if h = 0#8 then false else s.deb) →
    e = s.edge.extractLsb' 0 1 ++ BitVec.ofBool d →
    exec (.debRead x) s = .next { s with
      hist := h, deb := d, edge := e, resp := some (quietResponse e d s.face) }

/-- The ButtonState transition table: one place round the cycle per read at most, the edges lasting
exactly one read (41_debouncer.md section 3, marked derived there). -/
def Obligations.ButtonStateFollowsTheTransitionTable : Prop :=
  ∀ (x : Bool) (s : State), DebouncerInvariant s → ∃ t, exec (.debRead x) s = .next t ∧
    (ButtonState.ofCode s.edge = .up →
      ButtonState.ofCode t.edge = if t.hist = 0xFF#8 then .downEdge else .up) ∧
    (ButtonState.ofCode s.edge = .downEdge → ButtonState.ofCode t.edge = .down) ∧
    (ButtonState.ofCode s.edge = .down →
      ButtonState.ofCode t.edge = if t.hist = 0x00#8 then .upEdge else .down) ∧
    (ButtonState.ofCode s.edge = .upEdge → ButtonState.ofCode t.edge = .up)

/-- Eight equal samples in a row set the flag to them from any state, whatever came before
(41_debouncer.md section 4, marked derived there). -/
def Obligations.EightEqualSamplesDecideTheFlag : Prop :=
  ∀ (xs : List Bool) (x : Bool) (s : State),
    ∃ t, performAll ((xs ++ List.replicate 8 x).map .debRead) s = .next t ∧ t.deb = x

/-- Noise rejection: from a steady state no stream of samples without eight in a row against the flag
changes the flag or the edge state (41_debouncer.md section 4, marked derived there). -/
def Obligations.NoiseChangesNeitherFlagNorEdge : Prop :=
  ∀ (xs : List Bool) (s : State),
    (s.hist = 0x00#8 → s.deb = false → s.edge = ButtonState.up.code →
      ¬ List.replicate 8 true <:+: xs →
      ∃ t, performAll (xs.map .debRead) s = .next t ∧ t.deb = false ∧ t.edge = ButtonState.up.code) ∧
    (s.hist = 0xFF#8 → s.deb = true → s.edge = ButtonState.down.code →
      ¬ List.replicate 8 false <:+: xs →
      ∃ t, performAll (xs.map .debRead) s = .next t ∧ t.deb = true ∧ t.edge = ButtonState.down.code)

/-- After a DOWN_EDGE the next seven reads give DOWN and after an UP_EDGE the next seven give UP,
whatever the samples (41_debouncer.md section 4, marked derived there). -/
def Obligations.EdgesAreAtLeastEightReadsApart : Prop :=
  ∀ (xs : List Bool) (s : State), DebouncerInvariant s → 1 ≤ xs.length → xs.length ≤ 7 →
    ∃ t, performAll (xs.map .debRead) s = .next t ∧
      (s.edge = ButtonState.downEdge.code → t.edge = ButtonState.down.code) ∧
      (s.edge = ButtonState.upEdge.code → t.edge = ButtonState.up.code)

/-! ### roll_state_accumulator (42_roll.md) -/

/-- R121: ROLL.START sets `pressed` and the rolling speed, in every state, and nothing else. -/
def Obligations.RollStartSetsPressedAndSpeed : Prop :=
  ∀ s : State, s.cfg.wellFormed = true →
    exec .rollStart s = .next { s with
      pressed := true, speed := s.cfg.rollSpeed, resp := some (quietResponse s.edge s.deb s.face) }

/-- R122: ROLL.SLOW draws once, sets `face` to the draw modulo 6, halves the rolling speed rounding
down, clears `pressed`, in every state, and nothing else. -/
def Obligations.RollSlowDrawsTheFace : Prop :=
  ∀ (s : State) (f : BitVec 3), s.cfg.wellFormed = true → f.toNat = s.prng.output.toNat % 6 →
    exec .rollSlow s = .next { s with
      pressed := false, prng := s.prng.advance, face := f, speed := s.cfg.rollSpeed / 2
      resp := some (quietResponse s.edge s.deb f) }

/-- R123 case by case, under R21's bounds: the background draw; IDLE; the STOP tick; a slowing tick
that does not accumulate; and a tick that accumulates at the speed `v`, without and with overflow. -/
def Obligations.RollUpdateCaseByCase : Prop :=
  ∀ (s : State) (p : PrngState), s.cfg.wellFormed = true → s.timer < s.cfg.rollPeriod →
    s.speed ≤ s.cfg.rollSpeed →
    p = (if s.pressed = false ∨ s.cfg.drawWhenPressed = true then s.prng.advance else s.prng) →
    (s.speed = 0 → exec .rollUpdate s = .next { s with
      prng := p, timer := 0, resp := some (quietResponse s.edge s.deb s.face) }) ∧
    (s.pressed = false → s.speed = 1 → exec .rollUpdate s = .next { s with
      prng := p, speed := 0
      resp := some { quietResponse s.edge s.deb s.face with event := RollEvent.stop.code } }) ∧
    (s.pressed = false → 2 ≤ s.speed → s.cfg.slowAccumulates = false →
      exec .rollUpdate s = .next { s with
        prng := p, speed := s.speed - 1, resp := some (quietResponse s.edge s.deb s.face) }) ∧
    (∀ v : Nat,
      (s.pressed = true ∧ 1 ≤ s.speed ∧ v = s.speed) ∨
        (s.pressed = false ∧ 2 ≤ s.speed ∧ s.cfg.slowAccumulates = true ∧ v = s.speed - 1) →
      (s.timer + v / 2 ^ s.cfg.speedPrec < s.cfg.rollPeriod → exec .rollUpdate s = .next { s with
        prng := p, speed := v, timer := s.timer + v / 2 ^ s.cfg.speedPrec
        resp := some (quietResponse s.edge s.deb s.face) }) ∧
      (s.cfg.rollPeriod ≤ s.timer + v / 2 ^ s.cfg.speedPrec →
        ∀ f : BitVec 3, f.toNat = (s.face.toNat + 1) % 6 → exec .rollUpdate s = .next { s with
          prng := p, speed := v, timer := s.timer + v / 2 ^ s.cfg.speedPrec - s.cfg.rollPeriod, face := f
          resp := some { quietResponse s.edge s.deb f with event := RollEvent.roll.code } }))

/-- R120: the transitions of IDLE, ROLLING and SLOWING and the events they report; every state that
meets the invariant is in one of the three. -/
def Obligations.RollStatesFollowTheTransitionTable : Prop :=
  ∀ s : State, s.cfg.wellFormed = true → RollInvariant s →
    (∃ m, s.rollMode = some m) ∧
    (∃ t, exec .rollStart s = .next t ∧ t.rollMode = some .rolling ∧
      t.lastEvent = some RollEvent.noEvent.code) ∧
    (∃ t, exec .rollSlow s = .next t ∧ t.rollMode = some .slowing ∧
      t.speed = s.cfg.rollSpeed >>> 1 ∧ t.lastEvent = some RollEvent.noEvent.code) ∧
    (∃ t, exec .rollUpdate s = .next t ∧
      (s.rollMode = some .idle →
        t.rollMode = some .idle ∧ t.lastEvent = some RollEvent.noEvent.code) ∧
      (s.rollMode = some .rolling → t.rollMode = some .rolling ∧
        (t.lastEvent = some RollEvent.roll.code ∨ t.lastEvent = some RollEvent.noEvent.code)) ∧
      (s.rollMode = some .slowing → 1 < s.speed → t.rollMode = some .slowing ∧
        (t.lastEvent = some RollEvent.roll.code ∨ t.lastEvent = some RollEvent.noEvent.code)) ∧
      (s.rollMode = some .slowing → s.speed = 1 →
        t.rollMode = some .idle ∧ t.lastEvent = some RollEvent.stop.code))

/-- Exactly one STOP per slowdown: after ROLL.SLOW in any state, STOP is the event of the
(`ROLL_SPEED` >> 1)-th ROLL.UPDATE and of no other, for ever (42_roll.md section 5, marked derived
there). -/
def Obligations.ExactlyOneStopPerSlowdown : Prop :=
  ∀ (s : State) (n : Nat), s.cfg.wellFormed = true →
    ∃ t, performAll (.rollSlow :: List.replicate (n + 1) .rollUpdate) s = .next t ∧
      (t.lastEvent = some RollEvent.stop.code ↔ n + 1 = s.cfg.rollSpeed >>> 1)

/-- The resting face: with the default parameters it is the drawn face and seven more, whatever the
timer; without accumulation while slowing it is the drawn face at every moment of the slowdown
(42_roll.md section 5, marked derived there). -/
def Obligations.RestingFaceFollowsTheDraw : Prop :=
  (∀ s : State, s.cfg = defaultConfig → s.timer < 64 →
    ∃ t, performAll (.rollSlow :: List.replicate 128 .rollUpdate) s = .next t ∧
      t.lastEvent = some RollEvent.stop.code ∧ t.face.toNat = (s.prng.output.toNat + 7) % 6) ∧
  (∀ (s : State) (n : Nat), s.cfg.wellFormed = true → s.cfg.slowAccumulates = false →
    ∃ t, performAll (.rollSlow :: List.replicate n .rollUpdate) s = .next t ∧
      t.face.toNat = s.prng.output.toNat % 6)

/-! ### led_multiplex_driver (43_led.md) -/

/-- R146 with R42: LED.PUT loads the table's pattern for the faces 0 to 5 and rejects 6 and 7 with
`ill` = 1 and no other change. -/
def Obligations.LedPutLoadsOrRejects : Prop :=
  ∀ (f : BitVec 3) (s : State),
    (∀ p : BitVec 6,
      [0b010000#6, 0b000001#6, 0b001001#6, 0b000011#6, 0b001011#6, 0b000111#6][f.toNat]? = some p →
      exec (.ledPut f) s = .next { s with
        pattern := p, resp := some (quietResponse s.edge s.deb s.face) }) ∧
    (6 ≤ f.toNat → exec (.ledPut f) s = .next { s with
      resp := some { quietResponse s.edge s.deb s.face with ill := true } })

/-- R147: LED.BLINK starts the blink from its first phase, whatever ran before, and nothing else. -/
def Obligations.LedBlinkStartsFivePhases : Prop :=
  ∀ s : State, s.cfg.wellFormed = true →
    exec .ledBlink s = .next { s with
      blinkCount := 5#3, blinkTimer := s.cfg.blinkMax
      resp := some (quietResponse s.edge s.deb s.face) }

/-- R148: LED.UNBLINK clears the count and the timer, and nothing else. -/
def Obligations.LedUnblinkClearsTheBlink : Prop :=
  ∀ s : State,
    exec .ledUnblink s = .next { s with
      blinkCount := 0#3, blinkTimer := 0, resp := some (quietResponse s.edge s.deb s.face) }

/-- R149, R151, R152, R153: LED.UPDATE advances the scan to `k`, floats all lines, drives the signature
of `k` when the effective pattern has its bit (the pattern unless the count is odd, or the indicator),
and steps the blink; nothing else changes. -/
def Obligations.LedUpdateScansOneSegment : Prop :=
  ∀ (s : State) (k : Nat) (anode cathode : Fin 3) (lit : Bool) (count : BitVec 3) (timer : Nat),
    s.cfg.wellFormed = true → s.scan.toNat < s.cfg.numElements →
    k = (s.scan.toNat + 1) % s.cfg.numElements →
    s.cfg.sig.toList[k]? = some ⟨anode, cathode⟩ →
    lit = ((s.blinkCount.toNat % 2 == 0 && s.pattern.getLsbD k) || s.cfg.indicatorMask.getLsbD k) →
    count.toNat = (if s.blinkTimer = 0 then s.blinkCount.toNat - 1 else s.blinkCount.toNat) →
    timer = (if s.blinkCount = 0#3 then s.blinkTimer
      else if s.blinkTimer = 0 then s.cfg.blinkMax else s.blinkTimer - 1) →
    exec .ledUpdate s = .next { s with
      scan := BitVec.ofNat 3 k
      lineOe := if lit then 1#3 <<< anode.val ||| 1#3 <<< cathode.val else 0#3
      lineLvl := if lit then 1#3 <<< anode.val else 0#3
      driveLog := s.driveLog ++ (Drive.mk 0#3 0#3 ::
        if lit then [Drive.mk (1#3 <<< anode.val ||| 1#3 <<< cathode.val) (1#3 <<< anode.val)] else [])
      blinkCount := count
      blinkTimer := timer
      resp := some (quietResponse s.edge s.deb s.face) }

/-- R153 and R64, line by line: a signature drives the anode line high and the cathode line low and
floats the third. -/
def Obligations.SignatureDrivesTwoLines : Prop :=
  ∀ (p : SegmentSig) (l : Fin 3), p.anode ≠ p.cathode →
    (signatureDrive p).line p.anode = .high ∧ (signatureDrive p).line p.cathode = .low ∧
    (l ≠ p.anode → l ≠ p.cathode → (signatureDrive p).line l = .floating)

/-- `NUM_ELEMENTS` consecutive LED.UPDATE commands test every index exactly once (43_led.md section 4,
marked derived there). -/
def Obligations.OneScanVisitsEverySegmentOnce : Prop :=
  ∀ (s : State) (k : BitVec 3), s.cfg.wellFormed = true → s.scan.toNat < s.cfg.numElements →
    k.toNat < s.cfg.numElements →
    ∃! j : Nat, j < s.cfg.numElements ∧
      ∃ t, performAll (List.replicate (j + 1) .ledUpdate) s = .next t ∧ t.scan = k

/-- The length of a blink: `n` LED.UPDATE commands after LED.BLINK the count has gone down by one per
`BLINK_MAX` + 1 of them, from 5 to 0, and stays 0 (43_led.md section 4, marked derived there). -/
def Obligations.BlinkRunsFivePhasesAndStops : Prop :=
  ∀ (s : State) (n : Nat), s.cfg.wellFormed = true →
    ∃ t, performAll (.ledBlink :: List.replicate n .ledUpdate) s = .next t ∧
      t.blinkCount.toNat = 5 - n / (s.cfg.blinkMax + 1)

/-! ### NOP and TICK (44_tick.md) -/

/-- R176: NOP changes no register and answers the quiet response. -/
def Obligations.NopChangesNothing : Prop :=
  ∀ s : State, exec .nop s = .next { s with resp := some (quietResponse s.edge s.deb s.face) }

/-- R177: TICK leaves every register, the lines and the drive log as the separate commands leave them
in the rule's order; its response has the button state of the read, the event of the update, `ill` = 0
always, and no data. -/
def Obligations.TickIsTheSeparateCommandsInOrder : Prop :=
  ∀ (x : Bool) (s : State), ∃ a b c d e f v,
    exec (.debRead x) s = .next a ∧
    (if a.edge = ButtonState.downEdge.code then exec .rollStart a = .next b
      else if a.edge = ButtonState.upEdge.code then exec .rollSlow a = .next b else b = a) ∧
    exec .rollUpdate b = .next c ∧ c.lastEvent = some v ∧
    (if v = RollEvent.stop.code then exec .ledBlink c = .next d else d = c) ∧
    exec (.ledPut c.face) d = .next e ∧
    exec .ledUpdate e = .next f ∧
    exec (.tick x) s = .next { f with
      resp := some { quietResponse a.edge f.deb c.face with event := v } }

/-- Under TICK the engine is pressed exactly while the button is debounced as pressed, ROLL.START is
performed only in IDLE or SLOWING and ROLL.SLOW only in ROLLING, no LED.PUT is rejected and the pattern
is that of the face (44_tick.md section 4, marked derived there). -/
def Obligations.TickKeepsRollAndButtonTogether : Prop :=
  ∀ (x : Bool) (s : State), s.cfg.wellFormed = true → DebouncerInvariant s → RollInvariant s →
    s.pressed = s.deb → ∃ t, exec (.tick x) s = .next t ∧
      t.pressed = t.deb ∧ faceLut t.face = some t.pattern ∧
      (t.edge = ButtonState.downEdge.code → s.rollMode = some .idle ∨ s.rollMode = some .slowing) ∧
      (t.edge = ButtonState.upEdge.code → s.rollMode = some .rolling)

/-- Draws per TICK by the button state it reports (44_tick.md section 4, marked derived there). -/
def Obligations.TickDrawsByButtonState : Prop :=
  ∀ (x : Bool) (s : State), DebouncerInvariant s → s.pressed = s.deb →
    ∃ t, exec (.tick x) s = .next t ∧
      t.prng = PrngState.advance^[match ButtonState.ofCode t.edge with
        | .up => 1
        | .downEdge => if s.cfg.drawWhenPressed then 1 else 0
        | .down => if s.cfg.drawWhenPressed then 1 else 0
        | .upEdge => 2] s.prng

/-! ### Whole-machine rules -/

/-- What does not depend on the PRNG state: the debouncer, `pressed`, `speed`, `timer`, the blink, the
scan, the event and `ill` of every command; `rdata` of every command but PRNG.NEXT and PRNG.GET; and
`face`, the pattern, the lines and the drive log of every command but those that perform ROLL.SLOW,
which are ROLL.SLOW and a TICK that sees UP_EDGE (70_reset_and_hazards.md section 1). -/
def Obligations.WhatDoesNotDependOnThePrngState : Prop :=
  ∀ (i : Instr) (s t : State) (q : PrngState), exec i s = .next t →
    ∃ u, exec i { s with prng := q } = .next u ∧
      u.hist = t.hist ∧ u.deb = t.deb ∧ u.edge = t.edge ∧ u.pressed = t.pressed ∧
      u.speed = t.speed ∧ u.timer = t.timer ∧ u.blinkCount = t.blinkCount ∧
      u.blinkTimer = t.blinkTimer ∧ u.scan = t.scan ∧ u.lastEvent = t.lastEvent ∧
      u.resp.map Response.ill = t.resp.map Response.ill ∧
      (i ≠ .prngNext → i ≠ .prngGet → u.resp.map Response.rdata = t.resp.map Response.rdata) ∧
      (i ≠ .rollSlow → (∀ x, i = .tick x → t.edge ≠ ButtonState.upEdge.code) →
        u.face = t.face ∧ u.pattern = t.pattern ∧ u.lineOe = t.lineOe ∧ u.lineLvl = t.lineLvl ∧
        u.driveLog = t.driveLog)

/-- The commands whose repetition changes nothing after the first: NOP, PRNG.GET, PRNG.SET with the
same data, ROLL.START, LED.UNBLINK, LED.PUT of the same face, and LED.BLINK (20_memory.md section 3,
marked derived there). -/
def Obligations.RepeatedCommandChangesNothing : Prop :=
  ∀ (i : Instr) (s t : State),
    i = .nop ∨ i = .prngGet ∨ (∃ w, i = .prngSet w) ∨ i = .rollStart ∨ i = .ledUnblink ∨
      (∃ f, i = .ledPut f) ∨ i = .ledBlink →
    exec i s = .next t → exec i t = .next t
end

