-- ==== Sys2Proof/Laws/State.lean ====
section
/-! SUPPORT. One lemma per field per update of the state, true by definition, so that no later proof
unfolds a record update. -/

namespace Sys2Proof.Machine

@[simp] theorem State.respond_cfg (s : State) (ill : Bool) (e : RollEvent) (w : Block) :
    (s.respond ill e w).cfg = s.cfg := rfl
@[simp] theorem State.respond_prng (s : State) (ill : Bool) (e : RollEvent) (w : Block) :
    (s.respond ill e w).prng = s.prng := rfl
@[simp] theorem State.respond_hist (s : State) (ill : Bool) (e : RollEvent) (w : Block) :
    (s.respond ill e w).hist = s.hist := rfl
@[simp] theorem State.respond_deb (s : State) (ill : Bool) (e : RollEvent) (w : Block) :
    (s.respond ill e w).deb = s.deb := rfl
@[simp] theorem State.respond_edge (s : State) (ill : Bool) (e : RollEvent) (w : Block) :
    (s.respond ill e w).edge = s.edge := rfl
@[simp] theorem State.respond_pressed (s : State) (ill : Bool) (e : RollEvent) (w : Block) :
    (s.respond ill e w).pressed = s.pressed := rfl
@[simp] theorem State.respond_speed (s : State) (ill : Bool) (e : RollEvent) (w : Block) :
    (s.respond ill e w).speed = s.speed := rfl
@[simp] theorem State.respond_timer (s : State) (ill : Bool) (e : RollEvent) (w : Block) :
    (s.respond ill e w).timer = s.timer := rfl
@[simp] theorem State.respond_face (s : State) (ill : Bool) (e : RollEvent) (w : Block) :
    (s.respond ill e w).face = s.face := rfl
@[simp] theorem State.respond_pattern (s : State) (ill : Bool) (e : RollEvent) (w : Block) :
    (s.respond ill e w).pattern = s.pattern := rfl
@[simp] theorem State.respond_blinkCount (s : State) (ill : Bool) (e : RollEvent) (w : Block) :
    (s.respond ill e w).blinkCount = s.blinkCount := rfl
@[simp] theorem State.respond_blinkTimer (s : State) (ill : Bool) (e : RollEvent) (w : Block) :
    (s.respond ill e w).blinkTimer = s.blinkTimer := rfl
@[simp] theorem State.respond_scan (s : State) (ill : Bool) (e : RollEvent) (w : Block) :
    (s.respond ill e w).scan = s.scan := rfl
@[simp] theorem State.respond_lineOe (s : State) (ill : Bool) (e : RollEvent) (w : Block) :
    (s.respond ill e w).lineOe = s.lineOe := rfl
@[simp] theorem State.respond_lineLvl (s : State) (ill : Bool) (e : RollEvent) (w : Block) :
    (s.respond ill e w).lineLvl = s.lineLvl := rfl
@[simp] theorem State.respond_driveLog (s : State) (ill : Bool) (e : RollEvent) (w : Block) :
    (s.respond ill e w).driveLog = s.driveLog := rfl
@[simp] theorem State.respond_resp (s : State) (ill : Bool) (e : RollEvent) (w : Block) :
    (s.respond ill e w).resp =
      some { ill := ill, btn := s.edge, deb := s.deb, face := s.face, event := e.code, rdata := w } := rfl
@[simp] theorem State.respond_host (s : State) (ill : Bool) (e : RollEvent) (w : Block) :
    (s.respond ill e w).host = s.host := rfl
@[simp] theorem State.respond_resets (s : State) (ill : Bool) (e : RollEvent) (w : Block) :
    (s.respond ill e w).resets = s.resets := rfl

@[simp] theorem State.respondPlain_cfg (s : State) : (s.respondPlain).cfg = s.cfg := rfl
@[simp] theorem State.respondPlain_prng (s : State) : (s.respondPlain).prng = s.prng := rfl
@[simp] theorem State.respondPlain_hist (s : State) : (s.respondPlain).hist = s.hist := rfl
@[simp] theorem State.respondPlain_deb (s : State) : (s.respondPlain).deb = s.deb := rfl
@[simp] theorem State.respondPlain_edge (s : State) : (s.respondPlain).edge = s.edge := rfl
@[simp] theorem State.respondPlain_pressed (s : State) : (s.respondPlain).pressed = s.pressed := rfl
@[simp] theorem State.respondPlain_speed (s : State) : (s.respondPlain).speed = s.speed := rfl
@[simp] theorem State.respondPlain_timer (s : State) : (s.respondPlain).timer = s.timer := rfl
@[simp] theorem State.respondPlain_face (s : State) : (s.respondPlain).face = s.face := rfl
@[simp] theorem State.respondPlain_pattern (s : State) : (s.respondPlain).pattern = s.pattern := rfl
@[simp] theorem State.respondPlain_blinkCount (s : State) : (s.respondPlain).blinkCount = s.blinkCount := rfl
@[simp] theorem State.respondPlain_blinkTimer (s : State) : (s.respondPlain).blinkTimer = s.blinkTimer := rfl
@[simp] theorem State.respondPlain_scan (s : State) : (s.respondPlain).scan = s.scan := rfl
@[simp] theorem State.respondPlain_lineOe (s : State) : (s.respondPlain).lineOe = s.lineOe := rfl
@[simp] theorem State.respondPlain_lineLvl (s : State) : (s.respondPlain).lineLvl = s.lineLvl := rfl
@[simp] theorem State.respondPlain_driveLog (s : State) : (s.respondPlain).driveLog = s.driveLog := rfl
@[simp] theorem State.respondPlain_resp (s : State) :
    (s.respondPlain).resp =
      some { ill := false, btn := s.edge, deb := s.deb, face := s.face, event := 0b00#2, rdata := 0#128 } := rfl
@[simp] theorem State.respondPlain_host (s : State) : (s.respondPlain).host = s.host := rfl
@[simp] theorem State.respondPlain_resets (s : State) : (s.respondPlain).resets = s.resets := rfl

@[simp] theorem State.performReserved_cfg (s : State) : (s.performReserved).cfg = s.cfg := rfl
@[simp] theorem State.performReserved_prng (s : State) : (s.performReserved).prng = s.prng := rfl
@[simp] theorem State.performReserved_hist (s : State) : (s.performReserved).hist = s.hist := rfl
@[simp] theorem State.performReserved_deb (s : State) : (s.performReserved).deb = s.deb := rfl
@[simp] theorem State.performReserved_edge (s : State) : (s.performReserved).edge = s.edge := rfl
@[simp] theorem State.performReserved_pressed (s : State) : (s.performReserved).pressed = s.pressed := rfl
@[simp] theorem State.performReserved_speed (s : State) : (s.performReserved).speed = s.speed := rfl
@[simp] theorem State.performReserved_timer (s : State) : (s.performReserved).timer = s.timer := rfl
@[simp] theorem State.performReserved_face (s : State) : (s.performReserved).face = s.face := rfl
@[simp] theorem State.performReserved_pattern (s : State) : (s.performReserved).pattern = s.pattern := rfl
@[simp] theorem State.performReserved_blinkCount (s : State) :
    (s.performReserved).blinkCount = s.blinkCount := rfl
@[simp] theorem State.performReserved_blinkTimer (s : State) :
    (s.performReserved).blinkTimer = s.blinkTimer := rfl
@[simp] theorem State.performReserved_scan (s : State) : (s.performReserved).scan = s.scan := rfl
@[simp] theorem State.performReserved_lineOe (s : State) : (s.performReserved).lineOe = s.lineOe := rfl
@[simp] theorem State.performReserved_lineLvl (s : State) : (s.performReserved).lineLvl = s.lineLvl := rfl
@[simp] theorem State.performReserved_driveLog (s : State) : (s.performReserved).driveLog = s.driveLog := rfl
@[simp] theorem State.performReserved_resp (s : State) :
    (s.performReserved).resp =
      some { ill := true, btn := s.edge, deb := s.deb, face := s.face, event := 0b00#2, rdata := 0#128 } := rfl
@[simp] theorem State.performReserved_host (s : State) : (s.performReserved).host = s.host := rfl
@[simp] theorem State.performReserved_resets (s : State) : (s.performReserved).resets = s.resets := rfl

@[simp] theorem State.draw_cfg (s : State) : (s.draw).cfg = s.cfg := rfl
@[simp] theorem State.draw_prng (s : State) : (s.draw).prng = s.prng.advance := rfl
@[simp] theorem State.draw_hist (s : State) : (s.draw).hist = s.hist := rfl
@[simp] theorem State.draw_deb (s : State) : (s.draw).deb = s.deb := rfl
@[simp] theorem State.draw_edge (s : State) : (s.draw).edge = s.edge := rfl
@[simp] theorem State.draw_pressed (s : State) : (s.draw).pressed = s.pressed := rfl
@[simp] theorem State.draw_speed (s : State) : (s.draw).speed = s.speed := rfl
@[simp] theorem State.draw_timer (s : State) : (s.draw).timer = s.timer := rfl
@[simp] theorem State.draw_face (s : State) : (s.draw).face = s.face := rfl
@[simp] theorem State.draw_pattern (s : State) : (s.draw).pattern = s.pattern := rfl
@[simp] theorem State.draw_blinkCount (s : State) : (s.draw).blinkCount = s.blinkCount := rfl
@[simp] theorem State.draw_blinkTimer (s : State) : (s.draw).blinkTimer = s.blinkTimer := rfl
@[simp] theorem State.draw_scan (s : State) : (s.draw).scan = s.scan := rfl
@[simp] theorem State.draw_lineOe (s : State) : (s.draw).lineOe = s.lineOe := rfl
@[simp] theorem State.draw_lineLvl (s : State) : (s.draw).lineLvl = s.lineLvl := rfl
@[simp] theorem State.draw_driveLog (s : State) : (s.draw).driveLog = s.driveLog := rfl
@[simp] theorem State.draw_resp (s : State) : (s.draw).resp = s.resp := rfl
@[simp] theorem State.draw_host (s : State) : (s.draw).host = s.host := rfl
@[simp] theorem State.draw_resets (s : State) : (s.draw).resets = s.resets := rfl

@[simp] theorem State.emit_cfg (s : State) (d : Drive) : (s.emit d).cfg = s.cfg := rfl
@[simp] theorem State.emit_prng (s : State) (d : Drive) : (s.emit d).prng = s.prng := rfl
@[simp] theorem State.emit_hist (s : State) (d : Drive) : (s.emit d).hist = s.hist := rfl
@[simp] theorem State.emit_deb (s : State) (d : Drive) : (s.emit d).deb = s.deb := rfl
@[simp] theorem State.emit_edge (s : State) (d : Drive) : (s.emit d).edge = s.edge := rfl
@[simp] theorem State.emit_pressed (s : State) (d : Drive) : (s.emit d).pressed = s.pressed := rfl
@[simp] theorem State.emit_speed (s : State) (d : Drive) : (s.emit d).speed = s.speed := rfl
@[simp] theorem State.emit_timer (s : State) (d : Drive) : (s.emit d).timer = s.timer := rfl
@[simp] theorem State.emit_face (s : State) (d : Drive) : (s.emit d).face = s.face := rfl
@[simp] theorem State.emit_pattern (s : State) (d : Drive) : (s.emit d).pattern = s.pattern := rfl
@[simp] theorem State.emit_blinkCount (s : State) (d : Drive) : (s.emit d).blinkCount = s.blinkCount := rfl
@[simp] theorem State.emit_blinkTimer (s : State) (d : Drive) : (s.emit d).blinkTimer = s.blinkTimer := rfl
@[simp] theorem State.emit_scan (s : State) (d : Drive) : (s.emit d).scan = s.scan := rfl
@[simp] theorem State.emit_lineOe (s : State) (d : Drive) : (s.emit d).lineOe = d.oe := rfl
@[simp] theorem State.emit_lineLvl (s : State) (d : Drive) : (s.emit d).lineLvl = d.lvl := rfl
@[simp] theorem State.emit_driveLog (s : State) (d : Drive) : (s.emit d).driveLog = s.driveLog ++ [d] := rfl
@[simp] theorem State.emit_resp (s : State) (d : Drive) : (s.emit d).resp = s.resp := rfl
@[simp] theorem State.emit_host (s : State) (d : Drive) : (s.emit d).host = s.host := rfl
@[simp] theorem State.emit_resets (s : State) (d : Drive) : (s.emit d).resets = s.resets := rfl

@[simp] theorem State.consumed_cfg (s : State) : (s.consumed).cfg = s.cfg := rfl
@[simp] theorem State.consumed_prng (s : State) : (s.consumed).prng = s.prng := rfl
@[simp] theorem State.consumed_hist (s : State) : (s.consumed).hist = s.hist := rfl
@[simp] theorem State.consumed_deb (s : State) : (s.consumed).deb = s.deb := rfl
@[simp] theorem State.consumed_edge (s : State) : (s.consumed).edge = s.edge := rfl
@[simp] theorem State.consumed_pressed (s : State) : (s.consumed).pressed = s.pressed := rfl
@[simp] theorem State.consumed_speed (s : State) : (s.consumed).speed = s.speed := rfl
@[simp] theorem State.consumed_timer (s : State) : (s.consumed).timer = s.timer := rfl
@[simp] theorem State.consumed_face (s : State) : (s.consumed).face = s.face := rfl
@[simp] theorem State.consumed_pattern (s : State) : (s.consumed).pattern = s.pattern := rfl
@[simp] theorem State.consumed_blinkCount (s : State) : (s.consumed).blinkCount = s.blinkCount := rfl
@[simp] theorem State.consumed_blinkTimer (s : State) : (s.consumed).blinkTimer = s.blinkTimer := rfl
@[simp] theorem State.consumed_scan (s : State) : (s.consumed).scan = s.scan := rfl
@[simp] theorem State.consumed_lineOe (s : State) : (s.consumed).lineOe = s.lineOe := rfl
@[simp] theorem State.consumed_lineLvl (s : State) : (s.consumed).lineLvl = s.lineLvl := rfl
@[simp] theorem State.consumed_driveLog (s : State) : (s.consumed).driveLog = s.driveLog := rfl
@[simp] theorem State.consumed_resp (s : State) : (s.consumed).resp = s.resp := rfl
@[simp] theorem State.consumed_host (s : State) : (s.consumed).host = s.host.tail := rfl
@[simp] theorem State.consumed_resets (s : State) : (s.consumed).resets = s.resets := rfl

@[simp] theorem State.present_cfg (s : State) (c : Command) : (s.present c).cfg = s.cfg := rfl
@[simp] theorem State.present_prng (s : State) (c : Command) : (s.present c).prng = s.prng := rfl
@[simp] theorem State.present_hist (s : State) (c : Command) : (s.present c).hist = s.hist := rfl
@[simp] theorem State.present_deb (s : State) (c : Command) : (s.present c).deb = s.deb := rfl
@[simp] theorem State.present_edge (s : State) (c : Command) : (s.present c).edge = s.edge := rfl
@[simp] theorem State.present_pressed (s : State) (c : Command) : (s.present c).pressed = s.pressed := rfl
@[simp] theorem State.present_speed (s : State) (c : Command) : (s.present c).speed = s.speed := rfl
@[simp] theorem State.present_timer (s : State) (c : Command) : (s.present c).timer = s.timer := rfl
@[simp] theorem State.present_face (s : State) (c : Command) : (s.present c).face = s.face := rfl
@[simp] theorem State.present_pattern (s : State) (c : Command) : (s.present c).pattern = s.pattern := rfl
@[simp] theorem State.present_blinkCount (s : State) (c : Command) :
    (s.present c).blinkCount = s.blinkCount := rfl
@[simp] theorem State.present_blinkTimer (s : State) (c : Command) :
    (s.present c).blinkTimer = s.blinkTimer := rfl
@[simp] theorem State.present_scan (s : State) (c : Command) : (s.present c).scan = s.scan := rfl
@[simp] theorem State.present_lineOe (s : State) (c : Command) : (s.present c).lineOe = s.lineOe := rfl
@[simp] theorem State.present_lineLvl (s : State) (c : Command) : (s.present c).lineLvl = s.lineLvl := rfl
@[simp] theorem State.present_driveLog (s : State) (c : Command) : (s.present c).driveLog = s.driveLog := rfl
@[simp] theorem State.present_resp (s : State) (c : Command) : (s.present c).resp = s.resp := rfl
@[simp] theorem State.present_host (s : State) (c : Command) :
    (s.present c).host = .command c :: s.host := rfl
@[simp] theorem State.present_resets (s : State) (c : Command) : (s.present c).resets = s.resets := rfl

@[simp] theorem State.debRead_cfg (s : State) (x : Bool) : (s.debRead x).cfg = s.cfg := rfl
@[simp] theorem State.debRead_prng (s : State) (x : Bool) : (s.debRead x).prng = s.prng := rfl
@[simp] theorem State.debRead_hist (s : State) (x : Bool) : (s.debRead x).hist = shiftIn s.hist x := rfl
@[simp] theorem State.debRead_deb (s : State) (x : Bool) :
    (s.debRead x).deb = hysteresis (shiftIn s.hist x) s.deb := rfl
@[simp] theorem State.debRead_edge (s : State) (x : Bool) :
    (s.debRead x).edge = edgeStep s.edge (hysteresis (shiftIn s.hist x) s.deb) := rfl
@[simp] theorem State.debRead_pressed (s : State) (x : Bool) : (s.debRead x).pressed = s.pressed := rfl
@[simp] theorem State.debRead_speed (s : State) (x : Bool) : (s.debRead x).speed = s.speed := rfl
@[simp] theorem State.debRead_timer (s : State) (x : Bool) : (s.debRead x).timer = s.timer := rfl
@[simp] theorem State.debRead_face (s : State) (x : Bool) : (s.debRead x).face = s.face := rfl
@[simp] theorem State.debRead_pattern (s : State) (x : Bool) : (s.debRead x).pattern = s.pattern := rfl
@[simp] theorem State.debRead_blinkCount (s : State) (x : Bool) :
    (s.debRead x).blinkCount = s.blinkCount := rfl
@[simp] theorem State.debRead_blinkTimer (s : State) (x : Bool) :
    (s.debRead x).blinkTimer = s.blinkTimer := rfl
@[simp] theorem State.debRead_scan (s : State) (x : Bool) : (s.debRead x).scan = s.scan := rfl
@[simp] theorem State.debRead_lineOe (s : State) (x : Bool) : (s.debRead x).lineOe = s.lineOe := rfl
@[simp] theorem State.debRead_lineLvl (s : State) (x : Bool) : (s.debRead x).lineLvl = s.lineLvl := rfl
@[simp] theorem State.debRead_driveLog (s : State) (x : Bool) : (s.debRead x).driveLog = s.driveLog := rfl
@[simp] theorem State.debRead_resp (s : State) (x : Bool) : (s.debRead x).resp = s.resp := rfl
@[simp] theorem State.debRead_host (s : State) (x : Bool) : (s.debRead x).host = s.host := rfl
@[simp] theorem State.debRead_resets (s : State) (x : Bool) : (s.debRead x).resets = s.resets := rfl

@[simp] theorem State.rollStart_cfg (s : State) : (s.rollStart).cfg = s.cfg := rfl
@[simp] theorem State.rollStart_prng (s : State) : (s.rollStart).prng = s.prng := rfl
@[simp] theorem State.rollStart_hist (s : State) : (s.rollStart).hist = s.hist := rfl
@[simp] theorem State.rollStart_deb (s : State) : (s.rollStart).deb = s.deb := rfl
@[simp] theorem State.rollStart_edge (s : State) : (s.rollStart).edge = s.edge := rfl
@[simp] theorem State.rollStart_pressed (s : State) : (s.rollStart).pressed = true := rfl
@[simp] theorem State.rollStart_speed (s : State) :
    (s.rollStart).speed = keep s.cfg.speedW s.cfg.rollSpeed := rfl
@[simp] theorem State.rollStart_timer (s : State) : (s.rollStart).timer = s.timer := rfl
@[simp] theorem State.rollStart_face (s : State) : (s.rollStart).face = s.face := rfl
@[simp] theorem State.rollStart_pattern (s : State) : (s.rollStart).pattern = s.pattern := rfl
@[simp] theorem State.rollStart_blinkCount (s : State) : (s.rollStart).blinkCount = s.blinkCount := rfl
@[simp] theorem State.rollStart_blinkTimer (s : State) : (s.rollStart).blinkTimer = s.blinkTimer := rfl
@[simp] theorem State.rollStart_scan (s : State) : (s.rollStart).scan = s.scan := rfl
@[simp] theorem State.rollStart_lineOe (s : State) : (s.rollStart).lineOe = s.lineOe := rfl
@[simp] theorem State.rollStart_lineLvl (s : State) : (s.rollStart).lineLvl = s.lineLvl := rfl
@[simp] theorem State.rollStart_driveLog (s : State) : (s.rollStart).driveLog = s.driveLog := rfl
@[simp] theorem State.rollStart_resp (s : State) : (s.rollStart).resp = s.resp := rfl
@[simp] theorem State.rollStart_host (s : State) : (s.rollStart).host = s.host := rfl
@[simp] theorem State.rollStart_resets (s : State) : (s.rollStart).resets = s.resets := rfl

@[simp] theorem State.rollSlow_cfg (s : State) : (s.rollSlow).cfg = s.cfg := rfl
@[simp] theorem State.rollSlow_prng (s : State) : (s.rollSlow).prng = s.prng.advance := rfl
@[simp] theorem State.rollSlow_hist (s : State) : (s.rollSlow).hist = s.hist := rfl
@[simp] theorem State.rollSlow_deb (s : State) : (s.rollSlow).deb = s.deb := rfl
@[simp] theorem State.rollSlow_edge (s : State) : (s.rollSlow).edge = s.edge := rfl
@[simp] theorem State.rollSlow_pressed (s : State) : (s.rollSlow).pressed = false := rfl
@[simp] theorem State.rollSlow_speed (s : State) :
    (s.rollSlow).speed = keep s.cfg.speedW (s.cfg.rollSpeed >>> 1) := rfl
@[simp] theorem State.rollSlow_timer (s : State) : (s.rollSlow).timer = s.timer := rfl
@[simp] theorem State.rollSlow_face (s : State) :
    (s.rollSlow).face = BitVec.ofNat 3 (s.prng.output.toNat % numFaces) := rfl
@[simp] theorem State.rollSlow_pattern (s : State) : (s.rollSlow).pattern = s.pattern := rfl
@[simp] theorem State.rollSlow_blinkCount (s : State) : (s.rollSlow).blinkCount = s.blinkCount := rfl
@[simp] theorem State.rollSlow_blinkTimer (s : State) : (s.rollSlow).blinkTimer = s.blinkTimer := rfl
@[simp] theorem State.rollSlow_scan (s : State) : (s.rollSlow).scan = s.scan := rfl
@[simp] theorem State.rollSlow_lineOe (s : State) : (s.rollSlow).lineOe = s.lineOe := rfl
@[simp] theorem State.rollSlow_lineLvl (s : State) : (s.rollSlow).lineLvl = s.lineLvl := rfl
@[simp] theorem State.rollSlow_driveLog (s : State) : (s.rollSlow).driveLog = s.driveLog := rfl
@[simp] theorem State.rollSlow_resp (s : State) : (s.rollSlow).resp = s.resp := rfl
@[simp] theorem State.rollSlow_host (s : State) : (s.rollSlow).host = s.host := rfl
@[simp] theorem State.rollSlow_resets (s : State) : (s.rollSlow).resets = s.resets := rfl

@[simp] theorem State.ledBlink_cfg (s : State) : (s.ledBlink).cfg = s.cfg := rfl
@[simp] theorem State.ledBlink_prng (s : State) : (s.ledBlink).prng = s.prng := rfl
@[simp] theorem State.ledBlink_hist (s : State) : (s.ledBlink).hist = s.hist := rfl
@[simp] theorem State.ledBlink_deb (s : State) : (s.ledBlink).deb = s.deb := rfl
@[simp] theorem State.ledBlink_edge (s : State) : (s.ledBlink).edge = s.edge := rfl
@[simp] theorem State.ledBlink_pressed (s : State) : (s.ledBlink).pressed = s.pressed := rfl
@[simp] theorem State.ledBlink_speed (s : State) : (s.ledBlink).speed = s.speed := rfl
@[simp] theorem State.ledBlink_timer (s : State) : (s.ledBlink).timer = s.timer := rfl
@[simp] theorem State.ledBlink_face (s : State) : (s.ledBlink).face = s.face := rfl
@[simp] theorem State.ledBlink_pattern (s : State) : (s.ledBlink).pattern = s.pattern := rfl
@[simp] theorem State.ledBlink_blinkCount (s : State) : (s.ledBlink).blinkCount = 5#3 := rfl
@[simp] theorem State.ledBlink_blinkTimer (s : State) :
    (s.ledBlink).blinkTimer = keep s.cfg.blinkTimerW s.cfg.blinkMax := rfl
@[simp] theorem State.ledBlink_scan (s : State) : (s.ledBlink).scan = s.scan := rfl
@[simp] theorem State.ledBlink_lineOe (s : State) : (s.ledBlink).lineOe = s.lineOe := rfl
@[simp] theorem State.ledBlink_lineLvl (s : State) : (s.ledBlink).lineLvl = s.lineLvl := rfl
@[simp] theorem State.ledBlink_driveLog (s : State) : (s.ledBlink).driveLog = s.driveLog := rfl
@[simp] theorem State.ledBlink_resp (s : State) : (s.ledBlink).resp = s.resp := rfl
@[simp] theorem State.ledBlink_host (s : State) : (s.ledBlink).host = s.host := rfl
@[simp] theorem State.ledBlink_resets (s : State) : (s.ledBlink).resets = s.resets := rfl

@[simp] theorem State.ledUnblink_cfg (s : State) : (s.ledUnblink).cfg = s.cfg := rfl
@[simp] theorem State.ledUnblink_prng (s : State) : (s.ledUnblink).prng = s.prng := rfl
@[simp] theorem State.ledUnblink_hist (s : State) : (s.ledUnblink).hist = s.hist := rfl
@[simp] theorem State.ledUnblink_deb (s : State) : (s.ledUnblink).deb = s.deb := rfl
@[simp] theorem State.ledUnblink_edge (s : State) : (s.ledUnblink).edge = s.edge := rfl
@[simp] theorem State.ledUnblink_pressed (s : State) : (s.ledUnblink).pressed = s.pressed := rfl
@[simp] theorem State.ledUnblink_speed (s : State) : (s.ledUnblink).speed = s.speed := rfl
@[simp] theorem State.ledUnblink_timer (s : State) : (s.ledUnblink).timer = s.timer := rfl
@[simp] theorem State.ledUnblink_face (s : State) : (s.ledUnblink).face = s.face := rfl
@[simp] theorem State.ledUnblink_pattern (s : State) : (s.ledUnblink).pattern = s.pattern := rfl
@[simp] theorem State.ledUnblink_blinkCount (s : State) : (s.ledUnblink).blinkCount = 0#3 := rfl
@[simp] theorem State.ledUnblink_blinkTimer (s : State) : (s.ledUnblink).blinkTimer = 0 := rfl
@[simp] theorem State.ledUnblink_scan (s : State) : (s.ledUnblink).scan = s.scan := rfl
@[simp] theorem State.ledUnblink_lineOe (s : State) : (s.ledUnblink).lineOe = s.lineOe := rfl
@[simp] theorem State.ledUnblink_lineLvl (s : State) : (s.ledUnblink).lineLvl = s.lineLvl := rfl
@[simp] theorem State.ledUnblink_driveLog (s : State) : (s.ledUnblink).driveLog = s.driveLog := rfl
@[simp] theorem State.ledUnblink_resp (s : State) : (s.ledUnblink).resp = s.resp := rfl
@[simp] theorem State.ledUnblink_host (s : State) : (s.ledUnblink).host = s.host := rfl
@[simp] theorem State.ledUnblink_resets (s : State) : (s.ledUnblink).resets = s.resets := rfl

end Sys2Proof.Machine
end

