-- ==== Sys2Proof/Laws/Ops.lean ====
section
/-! SUPPORT. What each shared operation and each step can do, said once. -/

namespace Sys2Proof.Machine

/-! ### Configurations -/

/-- The constraints of 00_scope.md R5 that the roll engine's and the blink's arithmetic rests on. -/
theorem Config.bounds {c : Config} (h : c.wellFormed = true) :
    (c.numElements = 5 ∨ c.numElements = 6) ∧ c.speedPrec < c.speedW ∧ 2 ≤ c.rollSpeed ∧
      c.rollSpeed < 2 ^ c.speedW ∧ 1 ≤ c.rollPeriod ∧ c.rollSpeed >>> c.speedPrec ≤ c.rollPeriod ∧
      c.rollPeriod + c.rollSpeed >>> c.speedPrec ≤ 2 ^ c.timerW ∧ c.blinkMax < 2 ^ c.blinkTimerW := by
  simp only [Config.wellFormed, Config.elementsOk, Config.precOk, Config.speedOk, Config.periodOk,
    Config.blinkOk, Bool.and_eq_true, Bool.or_eq_true, beq_iff_eq, decide_eq_true_eq] at h
  obtain ⟨⟨⟨⟨⟨⟨⟨⟨h1, -⟩, -⟩, -⟩, h2⟩, h3⟩, h4⟩, -⟩, h5⟩ := h
  exact ⟨h1, h2, h3.1, h3.2, h4.1.1, h4.1.2, h4.2, h5⟩

/-- In a configuration that meets the constraints the anode differs from the cathode in every pair. -/
theorem Config.anode_ne_cathode {c : Config} (h : c.wellFormed = true) {p : SegmentSig}
    (hp : p ∈ c.sig.toList) : p.anode ≠ p.cathode := by
  simp only [Config.wellFormed, Config.sigPairsOk, Bool.and_eq_true, List.all_eq_true] at h
  have h' := h.1.1.1.1.1.1.2 p hp
  simpa using h'

/-- In a configuration that meets the constraints the scanned pairs are pairwise different. -/
theorem Config.sig_nodup {c : Config} (h : c.wellFormed = true) :
    (c.sig.toList.take c.numElements).Nodup := by
  simp only [Config.wellFormed, Config.sigDistinctOk, Bool.and_eq_true, decide_eq_true_eq] at h
  exact h.1.1.1.1.1.2

/-- A number below 2^w is kept as it is. -/
theorem keep_of_lt {w n : Nat} (h : n < 2 ^ w) : keep w n = n := Nat.mod_eq_of_lt h

/-- A kept number does not exceed the number. -/
theorem keep_le (w n : Nat) : keep w n ≤ n := Nat.mod_le _ _

@[simp] theorem keep_zero (w : Nat) : keep w 0 = 0 := Nat.zero_mod _

/-! ### What the commands' operations write -/

/-- The background draw writes `s` alone. -/
theorem State.backgroundDraw_eq (s : State) :
    s.backgroundDraw = { s with prng :=
      if s.pressed = false ∨ s.cfg.drawWhenPressed = true then s.prng.advance else s.prng } := by
  unfold State.backgroundDraw
  split <;> rfl

/-- Accumulating writes `timer` and `face` alone, and reports ROLL or NONE. -/
theorem State.accumulate_frame (s : State) : ∃ m f,
    s.accumulate.2 = { s with timer := m, face := f } ∧ s.accumulate.1 ≠ .stop := by
  unfold State.accumulate
  dsimp only
  split
  · exact ⟨_, _, rfl, by simp⟩
  · exact ⟨_, s.face, rfl, by simp⟩

/-- Slowing writes `speed`, `timer` and `face` alone. -/
theorem State.slowDown_frame (s : State) : ∃ v m f,
    s.slowDown.2 = { s with speed := v, timer := m, face := f } := by
  unfold State.slowDown
  dsimp only
  split
  · exact ⟨_, s.timer, s.face, rfl⟩
  · split
    · exact ⟨_, s.timer, s.face, rfl⟩
    · obtain ⟨m, f, h, -⟩ := State.accumulate_frame { s with speed := keep s.cfg.speedW (s.speed - 1) }
      exact ⟨_, m, f, h⟩

/-- ROLL.UPDATE writes `s`, `speed`, `timer` and `face` alone; `s` by the background draw. -/
theorem State.rollUpdate_frame (s : State) : ∃ v m f,
    s.rollUpdate.2 = { s with
      prng := if s.pressed = false ∨ s.cfg.drawWhenPressed = true then s.prng.advance else s.prng
      speed := v, timer := m, face := f } := by
  unfold State.rollUpdate
  rw [State.backgroundDraw_eq]
  dsimp only
  split
  · exact ⟨s.speed, 0, s.face, rfl⟩
  · split
    · obtain ⟨v, m, f, h⟩ := State.slowDown_frame { s with prng := _ }
      exact ⟨v, m, f, h⟩
    · obtain ⟨m, f, h, -⟩ := State.accumulate_frame { s with prng := _ }
      exact ⟨s.speed, m, f, h⟩

/-- LED.PUT writes `pattern` alone; a rejected face writes nothing. -/
theorem State.ledPut_eq (s : State) (f : BitVec 3) :
    s.ledPut f = (!(faceLut f).isSome, { s with pattern := (faceLut f).getD s.pattern }) := by
  unfold State.ledPut
  cases faceLut f <;> rfl

/-- The table holds a pattern for the faces 0 to 5 and for no other. -/
theorem faceLut_isSome (f : BitVec 3) : (faceLut f).isSome = decide (f.toNat ≤ 5) := by
  revert f
  decide

/-- Driving a segment writes the lines and the log alone: it emits the segment's signature, or nothing. -/
theorem State.driveSegment_cases (s : State) (eff : BitVec 6) :
    s.driveSegment eff = s ∨ ∃ d, signature s.cfg s.scan = some d ∧ eff.getLsbD s.scan.toNat = true ∧
      s.driveSegment eff = s.emit d := by
  unfold State.driveSegment
  split
  · next d h =>
    split
    · next he => exact .inr ⟨d, h, he, rfl⟩
    · exact .inl rfl
  · exact .inl rfl

/-- The blink step writes the blink registers alone. -/
theorem State.blinkStep_frame (s : State) : ∃ c m,
    s.blinkStep = { s with blinkCount := c, blinkTimer := m } := by
  unfold State.blinkStep
  split
  · exact ⟨s.blinkCount, s.blinkTimer, rfl⟩
  · split
    · exact ⟨_, _, rfl⟩
    · exact ⟨s.blinkCount, _, rfl⟩

/-- LED.UPDATE writes the scan, the lines, the log and the blink registers alone; it appends the
all-floating drive and then, at most, the signature of the new segment. -/
theorem State.ledUpdate_cases (s : State) : ∃ c m,
    s.ledUpdate = { s with
      scan := nextScan s.cfg s.scan, lineOe := 0b000#3, lineLvl := 0b000#3
      driveLog := s.driveLog ++ [Drive.floating], blinkCount := c, blinkTimer := m } ∨
    ∃ d, signature s.cfg (nextScan s.cfg s.scan) = some d ∧
      s.ledUpdate = { s with
        scan := nextScan s.cfg s.scan, lineOe := d.oe, lineLvl := d.lvl
        driveLog := s.driveLog ++ [Drive.floating] ++ [d], blinkCount := c, blinkTimer := m } := by
  let s1 : State := { s with scan := nextScan s.cfg s.scan }
  let eff := effectivePattern s1.cfg s1.pattern s1.blinkCount
  obtain ⟨c, m, hb⟩ := State.blinkStep_frame ((s1.emit .floating).driveSegment eff)
  have hu : s.ledUpdate = ((s1.emit .floating).driveSegment eff).blinkStep := rfl
  refine ⟨c, m, ?_⟩
  rcases State.driveSegment_cases (s1.emit .floating) eff with h | ⟨d, hd, -, h⟩
  · left
    rw [hu, hb, h]
    rfl
  · right
    refine ⟨d, hd, ?_⟩
    rw [hu, hb, h]
    rfl

/-- LED.UPDATE writes the scan, the lines, the log and the blink registers alone. -/
theorem State.ledUpdate_frame (s : State) : ∃ oe lvl log c m,
    s.ledUpdate = { s with
      scan := nextScan s.cfg s.scan, lineOe := oe, lineLvl := lvl, driveLog := log
      blinkCount := c, blinkTimer := m } := by
  obtain ⟨c, m, h | ⟨d, -, h⟩⟩ := State.ledUpdate_cases s
  · exact ⟨_, _, _, c, m, h⟩
  · exact ⟨_, _, _, c, m, h⟩

/-- The edge is fed to the roll engine: ROLL.START on DOWN_EDGE, ROLL.SLOW on UP_EDGE. -/
theorem State.feedEdge_eq (s : State) :
    s.feedEdge = if s.edge = 0b01#2 then s.rollStart else if s.edge = 0b10#2 then s.rollSlow else s := by
  unfold State.feedEdge ButtonState.ofCode
  by_cases h1 : s.edge = 0b01#2
  · simp [h1]
  · by_cases h2 : s.edge = 0b10#2
    · simp [h2]
    · by_cases h0 : s.edge = 0b00#2
      · simp [h0]
      · simp [h0, h1, h2]

/-- A STOP starts the finish-blink; no other event does anything inside TICK. -/
theorem State.feedEvent_eq (s : State) (e : RollEvent) :
    s.feedEvent e = if e = .stop then s.ledBlink else s := by
  cases e <;> rfl

/-- TICK as the composition of its sub-steps (44_tick.md R177). -/
theorem State.tick_eq (s : State) (x : Bool) :
    let u := (s.debRead x).feedEdge.rollUpdate
    let v := u.2.feedEvent u.1
    s.tick x = (u.1, (v.ledPut v.face).2.ledUpdate) := rfl

/-! ### Commands and steps -/

/-- Every command answers a next state (60_exceptions.md R190). -/
theorem exec_eq_next (i : Instr) (s : State) : ∃ t, exec i s = .next t := by
  cases i <;> exact ⟨_, rfl⟩

/-- Commands in a row: the first, then the rest on what it left. -/
theorem performAll_cons {i : Instr} {is : List Instr} {s t : State} (h : exec i s = .next t) :
    performAll (i :: is) s = performAll is t := by
  simp [performAll, h]

@[simp] theorem performAll_nil (s : State) : performAll [] s = .next s := rfl

/-- Commands in a row, split anywhere. -/
theorem performAll_append (is js : List Instr) (s : State) : ∃ t,
    performAll is s = .next t ∧ performAll (is ++ js) s = performAll js t := by
  induction is generalizing s with
  | nil => exact ⟨s, rfl, rfl⟩
  | cons i is ih =>
    obtain ⟨u, hu⟩ := exec_eq_next i s
    obtain ⟨t, h1, h2⟩ := ih u
    exact ⟨t, by rw [performAll_cons hu, h1], by rw [List.cons_append, performAll_cons hu, h2]⟩

/-- All that a step can do: the configuration meets the constraints, and the host's choice was RESET, a
command that decodes, or a reserved word. -/
theorem step_cases {s t : State} (h : step s = .next t) : s.cfg.wellFormed = true ∧
    ((s.presented = .reset ∧ t = s.consumed.performReset) ∨
      (∃ c i, s.presented = .command c ∧ decode c = .ok i ∧ exec i s.consumed = .next t) ∨
      ∃ c e, s.presented = .command c ∧ decode c = .error e ∧ t = s.consumed.performReserved) := by
  unfold step at h
  split at h
  · next hw =>
    refine ⟨hw, ?_⟩
    split at h
    · next hp => exact .inl ⟨hp, by simpa using h.symm⟩
    · next c hp =>
      split at h
      · next i hi => exact .inr (.inl ⟨c, i, hp, hi, h⟩)
      · next e he => exact .inr (.inr ⟨c, e, hp, he, by simpa using h.symm⟩)
  · cases h

end Sys2Proof.Machine
end

