-- ==== Sys2Proof/Laws/PerInstr.lean ====
section
/-! SUPPORT. Statements made for every command, one lemma per constructor of `Instr`. -/

namespace Sys2Proof.Laws

/-- The encoding of a command is a well-formed command word: its opcode is defined and its
must-be-zero bits are zero (30_encoding.md R56, R61). -/
def EncodingIsWellFormed.Statement (i : Instr) : Prop := (encode i).wellFormed = true

/-- Only the command word matters to a command's well-formedness, not its data. -/
theorem wellFormed_of_cw {c d : Command} (h : c.cw = d.cw) : c.wellFormed = d.wellFormed := by
  unfold Command.wellFormed Command.op Command.imm
  rw [h]

theorem EncodingIsWellFormed.nop : EncodingIsWellFormed.Statement .nop := rfl
theorem EncodingIsWellFormed.prngNext : EncodingIsWellFormed.Statement .prngNext := rfl
theorem EncodingIsWellFormed.prngJump : EncodingIsWellFormed.Statement .prngJump := rfl
theorem EncodingIsWellFormed.prngLjump : EncodingIsWellFormed.Statement .prngLjump := rfl
theorem EncodingIsWellFormed.prngGet : EncodingIsWellFormed.Statement .prngGet := rfl
theorem EncodingIsWellFormed.prngSet (wdata : Block) :
    EncodingIsWellFormed.Statement (.prngSet wdata) :=
  (wellFormed_of_cw (c := encode (.prngSet wdata)) (d := encode (.prngSet 0#128)) rfl).trans (by decide)
theorem EncodingIsWellFormed.debRead (sample : Bool) :
    EncodingIsWellFormed.Statement (.debRead sample) := by cases sample <;> rfl
theorem EncodingIsWellFormed.rollStart : EncodingIsWellFormed.Statement .rollStart := rfl
theorem EncodingIsWellFormed.rollSlow : EncodingIsWellFormed.Statement .rollSlow := rfl
theorem EncodingIsWellFormed.rollUpdate : EncodingIsWellFormed.Statement .rollUpdate := rfl
theorem EncodingIsWellFormed.ledPut (f : BitVec 3) : EncodingIsWellFormed.Statement (.ledPut f) := by
  unfold EncodingIsWellFormed.Statement
  revert f
  decide
theorem EncodingIsWellFormed.ledBlink : EncodingIsWellFormed.Statement .ledBlink := rfl
theorem EncodingIsWellFormed.ledUnblink : EncodingIsWellFormed.Statement .ledUnblink := rfl
theorem EncodingIsWellFormed.ledUpdate : EncodingIsWellFormed.Statement .ledUpdate := rfl
theorem EncodingIsWellFormed.tick (sample : Bool) :
    EncodingIsWellFormed.Statement (.tick sample) := by cases sample <;> rfl

end Sys2Proof.Laws
end

