-- ==== Sys2Proof/Tests/Slice0.lean ====
section
/-! SUPPORT. Small tests of the model against the spec's own encodings and vectors
(95_test_vectors.md; each test names its vector), the smoke tests of the checks, and for every
statement with hypotheses a concrete state and operands that meet them. -/

namespace Sys2Proof.Tests

open Sys2Proof.Machine

/-! ### Decoding: words written out from 30_encoding.md R59 -/

theorem test_decode_nop : decode ⟨0b0000_0000#8, 0#128⟩ = .ok .nop := by decide
theorem test_decode_prngNext : decode ⟨0b0001_0000#8, 0#128⟩ = .ok .prngNext := by decide
theorem test_decode_prngJump : decode ⟨0b0010_0000#8, 0#128⟩ = .ok .prngJump := by decide
theorem test_decode_prngLjump : decode ⟨0b0011_0000#8, 0#128⟩ = .ok .prngLjump := by decide
theorem test_decode_prngGet : decode ⟨0b0100_0000#8, 0#128⟩ = .ok .prngGet := by decide
theorem test_decode_prngSet : decode ⟨0b0101_0000#8, 0x12345678#128⟩ = .ok (.prngSet 0x12345678#128) := by decide
theorem test_decode_debRead : decode ⟨0b0110_0001#8, 0#128⟩ = .ok (.debRead true) ∧
    decode ⟨0b0110_0000#8, 0#128⟩ = .ok (.debRead false) := by decide
theorem test_decode_rollStart : decode ⟨0b0111_0000#8, 0#128⟩ = .ok .rollStart := by decide
theorem test_decode_rollSlow : decode ⟨0b1000_0000#8, 0#128⟩ = .ok .rollSlow := by decide
theorem test_decode_rollUpdate : decode ⟨0b1001_0000#8, 0#128⟩ = .ok .rollUpdate := by decide
theorem test_decode_ledPut : decode ⟨0b1010_0110#8, 0#128⟩ = .ok (.ledPut 6#3) ∧
    decode ⟨0b1010_0011#8, 0#128⟩ = .ok (.ledPut 3#3) := by decide
theorem test_decode_ledBlink : decode ⟨0b1011_0000#8, 0#128⟩ = .ok .ledBlink := by decide
theorem test_decode_ledUnblink : decode ⟨0b1100_0000#8, 0#128⟩ = .ok .ledUnblink := by decide
theorem test_decode_ledUpdate : decode ⟨0b1101_0000#8, 0#128⟩ = .ok .ledUpdate := by decide
theorem test_decode_tick : decode ⟨0b1110_0001#8, 0#128⟩ = .ok (.tick true) ∧
    decode ⟨0b1110_0000#8, 0#128⟩ = .ok (.tick false) := by decide

/-- V5.1: reserved words. -/
theorem test_decode_reserved :
    decode ⟨0xF0#8, 0#128⟩ = .error .reservedOpcode ∧ decode ⟨0xFF#8, 0#128⟩ = .error .reservedOpcode ∧
    decode ⟨0x01#8, 0#128⟩ = .error .reservedImmediate ∧ decode ⟨0x51#8, 0#128⟩ = .error .reservedImmediate ∧
    decode ⟨0x62#8, 0#128⟩ = .error .reservedImmediate ∧ decode ⟨0xA8#8, 0#128⟩ = .error .reservedImmediate ∧
    decode ⟨0xE2#8, 0#128⟩ = .error .reservedImmediate := by decide

/-- R67, R68: a listing line and the words of PRESS 2. -/
theorem test_listing : (Instr.prngSet 0x00000004000000030000000200000001#128).listing =
      "PRNG.SET 0x00000004000000030000000200000001" ∧
    seedCommands 1 2 3 4 = [.prngSet 0x00000004000000030000000200000001#128] ∧
    (pressCommands 2).map encodeWord = [0xE1#8, 0xE1#8] := by decide

/-! ### Smoke tests of the checks: an ill-formed term for each -/

theorem test_wellFormed_refuses_opcode : (Command.mk 0xF0#8 0#128).wellFormed = false := by decide
theorem test_wellFormed_refuses_formatZ : (Command.mk 0x11#8 0#128).wellFormed = false := by decide
theorem test_wellFormed_refuses_formatW : (Command.mk 0x51#8 0#128).wellFormed = false := by decide
theorem test_wellFormed_refuses_formatS : (Command.mk 0x62#8 0#128).wellFormed = false := by decide
theorem test_wellFormed_refuses_formatF : (Command.mk 0xA8#8 0#128).wellFormed = false := by decide
theorem test_config_refuses_elements :
    { defaultConfig with numElements := 7 }.wellFormed = false := by decide
theorem test_config_refuses_indicator : { defaultConfig with indicatorMask := 0b000011#6 }.wellFormed = false ∧
    { defaultConfig with numElements := 5, indicatorMask := 0b100000#6 }.wellFormed = false := by decide
theorem test_config_refuses_equal_lines :
    { defaultConfig with sig := defaultSig.set 2 ⟨1, 1⟩ }.wellFormed = false := by decide
theorem test_config_refuses_equal_pairs :
    { defaultConfig with sig := defaultSig.set 2 ⟨0, 1⟩ }.wellFormed = false := by decide
theorem test_config_refuses_precision :
    { defaultConfig with speedPrec := 16 }.wellFormed = false := by decide
theorem test_config_refuses_speed : { defaultConfig with rollSpeed := 1 }.wellFormed = false ∧
    { defaultConfig with rollSpeed := 65536, rollPeriod := 5000 }.wellFormed = false := by decide
theorem test_config_refuses_period : { defaultConfig with rollPeriod := 15 }.wellFormed = false ∧
    { defaultConfig with rollPeriod := 65535 }.wellFormed = false := by decide
theorem test_config_refuses_widths :
    { defaultConfig with blinkMax := 0, blinkTimerW := 0 }.wellFormed = false := by decide
theorem test_config_refuses_blink : { defaultConfig with blinkMax := 256 }.wellFormed = false := by decide
theorem test_config_accepts_defaults : defaultConfig.wellFormed = true := by decide

/-! ### The commands -/

/-- The state after power-on with the PRNG seeded. -/
def seeded (a b c d : Word) : State := { State.reset with prng := ⟨a, b, c, d⟩ }

/-- One view of an outcome's next state. -/
def got {α : Type} (o : Host.Outcome State Fault Refusal) (f : State → α) : Option α :=
  match o with
  | .next s => some (f s)
  | .fault _ => none
  | .refused _ => none

/-- The data of a response. -/
def rdataOf (s : State) : Option Block := s.resp.map Response.rdata

/-- R176 with V5.3: the response is quiet. -/
theorem test_nop : got (exec .nop (seeded 1 2 3 4)) (fun s => (s.prng, s.resp)) =
    some (⟨1, 2, 3, 4⟩, some ⟨false, 0, false, 0, 0, 0⟩) := by decide

/-- V1.1, first draw. -/
theorem test_prngNext : got (exec .prngNext (seeded 0x12345678 0 0 0)) (fun s => (rdataOf s, s.prng)) =
    some (some 0x2c5f9281, ⟨0x12345678, 0x12345678, 0x12345678, 0⟩) := by decide

/-- V1.7, fourth row: bit 23 of `s[1]` leaves through the shift and wraps through the rotation. -/
theorem test_prngNext_shift_is_no_rotation :
    got (exec .prngNext (seeded 0 0x00800000 0 0)) (fun s => (rdataOf s, s.prng)) =
      some (some 0, ⟨0x00800000, 0x00800000, 0, 4⟩) := by decide

/-- V1.9, second row. -/
theorem test_prngJump : got (exec .prngJump (seeded 1 2 3 4)) (fun s => (rdataOf s, s.prng)) =
    some (some 0, ⟨0xa9765206, 0x797aa168, 0x5b62e331, 0x02abd971⟩) := by decide +kernel

/-- V1.9, second row. -/
theorem test_prngLjump : got (exec .prngLjump (seeded 1 2 3 4)) (fun s => (rdataOf s, s.prng)) =
    some (some 0, ⟨0x6014af26, 0x7eb5a852, 0x399fbba1, 0xbe5ebfce⟩) := by decide +kernel

/-- P2: PRNG.GET after three draws. -/
theorem test_prngGet :
    got (exec .prngGet (seeded 0xb08796e9 0x7a98a678 0 0x3cb74d84)) rdataOf =
      some (some 0x3cb74d84000000007a98a678b08796e9) := by decide

/-- V1.11. -/
theorem test_prngSet :
    got (exec (.prngSet 0x00000004000000030000000200000001) (seeded 0 0 0 0)) (fun s => s.prng) =
      some ⟨1, 2, 3, 4⟩ := by decide

/-- V1.11: the state block as bytes. -/
theorem test_blockBytes : blockBytes 0x12345678#128 =
    [0x78, 0x56, 0x34, 0x12, 0, 0, 0, 0, 0, 0, 0, 0, 0, 0, 0, 0] := by decide

/-- V2.1, read 8: DOWN_EDGE. -/
theorem test_debRead_eighth : got (exec (.debRead true) { seeded 0 0 0 0 with hist := 0x7f })
    (fun s => (s.hist, s.deb, s.edge)) = some (0xff, true, 0b01) := by decide

/-- V2.6, second case: mixed history leaves the flag, the edge register shifts. -/
theorem test_debRead_mixed :
    got (exec (.debRead true) { seeded 0 0 0 0 with hist := 0x55, deb := true, edge := 0b10 })
      (fun s => (s.hist, s.deb, s.edge)) = some (0xab, true, 0b01) := by decide

/-- V3.10: ROLL.START in a slowdown keeps `timer` and `face`. -/
theorem test_rollStart :
    got (exec .rollStart { seeded 1 2 3 4 with speed := 125, timer := 37, face := 5 })
      (fun s => (s.pressed, s.speed, s.timer, s.face)) = some (true, 256, 37, 5) := by decide

/-- V3.2: the draw 0x2c5f9281 gives face 3. -/
theorem test_rollSlow :
    got (exec .rollSlow { seeded 0x12345678 0 0 0 with pressed := true, speed := 256, timer := 32 })
      (fun s => (s.pressed, s.face, s.speed, s.timer, rdataOf s)) =
        some (false, 3, 128, 32, some 0) := by decide

/-- R123's example: ROLLING, `timer` 48, `face` 5: ROLL, and no draw. -/
theorem test_rollUpdate_roll :
    got (exec .rollUpdate { seeded 1 2 3 4 with pressed := true, speed := 256, timer := 48, face := 5 })
      (fun s => (s.timer, s.face, s.prng, s.lastEvent)) =
        some (0, 0, ⟨1, 2, 3, 4⟩, some 0b01) := by decide

/-- V3.5, update 8: the STOP tick draws and leaves `timer` and `face`. -/
theorem test_rollUpdate_stop :
    got (exec .rollUpdate { seeded 1 2 3 4 with speed := 1, timer := 9, face := 2 })
      (fun s => (s.speed, s.timer, s.face, s.prng, s.lastEvent)) =
        some (0, 9, 2, ⟨7, 0, 0x402, 0x3000⟩, some 0b10) := by decide

/-- R146's example. -/
theorem test_ledPut : got (exec (.ledPut 3) (seeded 0 0 0 0)) (fun s => s.pattern) =
    some 0b000011 := by decide

/-- V4.8: face 6 is rejected. -/
theorem test_ledPut_rejected :
    got (exec (.ledPut 6) { seeded 0 0 0 0 with pattern := 0b000011 })
      (fun s => (s.pattern, s.resp.map Response.ill)) = some (0b000011, some true) := by decide

/-- R147's example. -/
theorem test_ledBlink : got (exec .ledBlink (seeded 0 0 0 0)) (fun s => (s.blinkCount, s.blinkTimer)) =
    some (5, 63) := by decide

/-- R148's example. -/
theorem test_ledUnblink :
    got (exec .ledUnblink { seeded 0 0 0 0 with blinkCount := 3, blinkTimer := 17 })
      (fun s => (s.blinkCount, s.blinkTimer)) = some (0, 0) := by decide

/-- R149's example: `scan` wraps to 0 and segment 0 is lit after a float. -/
theorem test_ledUpdate :
    got (exec .ledUpdate { seeded 0 0 0 0 with pattern := 0b000011, scan := 5 })
      (fun s => (s.scan, s.lineOe, s.lineLvl, s.driveLog)) =
        some (0, 0b011, 0b001, [⟨0, 0⟩, ⟨0b011, 0b001⟩]) := by decide

/-- V4.6, `scan` 5 at count 1: the pattern is suppressed, the indicator is not, and the blink steps. -/
theorem test_ledUpdate_indicator :
    got (exec .ledUpdate { seeded 0 0 0 0 with
        cfg := { defaultConfig with indicatorMask := 0b100000, blinkMax := 0 }
        pattern := 0b110000, scan := 4, blinkCount := 1 })
      (fun s => (s.lineOe, s.lineLvl, s.blinkCount, s.blinkTimer)) =
        some (0b101, 0b100, 0, 0) := by decide

/-- The parameters of P3. -/
def gameConfig : Config :=
  { defaultConfig with speedPrec := 2, rollSpeed := 32, rollPeriod := 16, blinkMax := 1 }

/-- P3, tick 20: UP_EDGE, two draws, the drawn face is shown. -/
theorem test_tick_release :
    got (exec (.tick false) { seeded 0x06e10189 0xbd2b701f 0x27c7853b 0x0407dff7 with
        cfg := gameConfig, hist := 0x80, deb := true, edge := 0b11, pressed := true, speed := 32
        pattern := 0b010000, scan := 1 })
      (fun s => ((s.edge, s.speed, s.timer), (s.face, s.pattern, s.scan), s.prng)) =
        some ((0b10, 15, 3), (2, 0b001001, 2), ⟨0x46bf1f05, 0x5406e07e, 0xd3e24ed3, 0x958b27cb⟩) := by decide

/-- P3, tick 35: STOP starts the blink and its frame is already dark. -/
theorem test_tick_stop :
    got (exec (.tick false) { seeded 1 2 3 4 with
        cfg := gameConfig, speed := 1, timer := 8, face := 3, pattern := 0b000011, scan := 4 })
      (fun s => ((s.lastEvent, s.blinkCount, s.blinkTimer), (s.scan, s.lineOe), (s.timer, s.face))) =
        some ((some 0b10, 5, 0), (5, 0b000), (8, 3)) := by decide

/-! ### The step -/

/-- V5.2: a reserved word through the port. -/
theorem test_step_reserved : got (step ((seeded 1 2 3 4).withFetchWord 8 0xF0))
    (fun s => (s.prng, s.driveLog, s.resp, s.host)) =
      some (⟨1, 2, 3, 4⟩, [], some ⟨true, 0, false, 0, 0, 0⟩, []) := by decide

/-- V5.4: RESET then LED.UPDATE: `scan` = 1 and one float. -/
theorem test_step_after_reset : got (step (State.reset.withFetchWord 8 0xD0))
    (fun s => (s.scan, s.driveLog, s.lineOe)) = some (1, [⟨0, 0⟩], 0) := by decide

/-- The idle port (log entry 2). -/
theorem test_step_idle : got (step (seeded 1 2 3 4)) (fun s => (s.prng, s.scan, s.resp)) =
    some (⟨1, 2, 3, 4⟩, 0, some ⟨false, 0, false, 0, 0, 0⟩) := by decide

/-- The table's numbering with the data above the word (log entry 13). -/
theorem test_decodeTableWord : decodeTableWord 8 0x50 = some (.prngSet 0) ∧
    decodeTableWord 136 0x0450 = some (.prngSet 4) ∧ decodeTableWord 8 0xF0 = none := by decide

/-! ### Concrete states that meet the statements' hypotheses -/

/-- The state after power-on, seeded. -/
abbrev restState : State := seeded 1 2 3 4

theorem rest_debouncer : DebouncerInvariant restState :=
  ⟨by decide, by decide, by decide, by decide, by decide⟩
theorem rest_roll : RollInvariant restState := ⟨by decide, by decide, by decide, by decide⟩
theorem rest_led : LedInvariant restState := ⟨.inl rfl, by decide, by decide, by decide, .inl rfl⟩

/-- A state in which segment 4 is lit. -/
def litState : State :=
  { seeded 1 2 3 4 with
    pattern := 0b010000, scan := 4, lineOe := 0b101, lineLvl := 0b001
    driveLog := [⟨0, 0⟩, ⟨0b101, 0b001⟩] }

/-- A state in which the button has just been seen as pressed. -/
def downEdgeState : State := { seeded 1 2 3 4 with hist := 0xFF, deb := true, edge := 0b01 }

/-- A state in which the button is held. -/
def downState : State :=
  { seeded 1 2 3 4 with hist := 0xFF, deb := true, edge := 0b11, pressed := true, speed := 256, timer := 48 }

/-- A state in which the button has just been seen as released. -/
def upEdgeState : State := { seeded 1 2 3 4 with hist := 0x00, deb := false, edge := 0b10 }

theorem downEdge_debouncer : DebouncerInvariant downEdgeState :=
  ⟨by decide, by decide, by decide, by decide, by decide⟩
theorem down_debouncer : DebouncerInvariant downState :=
  ⟨by decide, by decide, by decide, by decide, by decide⟩
theorem upEdge_debouncer : DebouncerInvariant upEdgeState :=
  ⟨by decide, by decide, by decide, by decide, by decide⟩
theorem down_roll : RollInvariant downState := ⟨by decide, by decide, by decide, by decide⟩
theorem lit_led : LedInvariant litState :=
  ⟨.inr ⟨0#3, by decide⟩, by decide, by decide, by decide, .inr (by decide)⟩

theorem witness_DecodeFollowsTheOpcodeMap : (⟨"TICK", 0xE0#8, 0xFE#8⟩ : OpcodeRow) ∈ opcodeMap ∧
    (⟨"TICK", 0xE0#8, 0xFE#8⟩ : OpcodeRow).selects 0xE1#8 = true ∧
    decode ⟨0xE1#8, 0#128⟩ = .ok (.tick true) := by decide
theorem witness_OperandsAreTheLowBits : decode ⟨0x61#8, 0#128⟩ = .ok (.debRead true) ∧
    decode ⟨0xE0#8, 0#128⟩ = .ok (.tick false) ∧ decode ⟨0xA7#8, 0#128⟩ = .ok (.ledPut 7#3) ∧
    decode ⟨0x50#8, 9#128⟩ = .ok (.prngSet 9#128) := by decide
theorem witness_StepRunsTheDecodedCommand : (State.reset.present ⟨0xE1#8, 0#128⟩).cfg.wellFormed = true ∧
    (State.reset.present ⟨0xE1#8, 0#128⟩).host = .command ⟨0xE1#8, 0#128⟩ :: [] ∧
    decode ⟨0xE1#8, 0#128⟩ = .ok (.tick true) := by decide
theorem witness_ReservedWordOnlySetsIll : (State.reset.present ⟨0xE2#8, 0#128⟩).cfg.wellFormed = true ∧
    (State.reset.present ⟨0xE2#8, 0#128⟩).host = .command ⟨0xE2#8, 0#128⟩ :: [] ∧
    ∀ r ∈ opcodeMap, r.selects 0xE2#8 = false := by decide
theorem witness_IdlePortPerformsNop : State.reset.cfg.wellFormed = true ∧ State.reset.host = [] := by decide
theorem witness_IllFormedConfigurationIsRefused :
    { State.reset with cfg := { defaultConfig with numElements := 7 } }.cfg.wellFormed = false := by decide
theorem witness_IllFormedConfigurationIsRefused_legal_boundary :
    { defaultConfig with
      numElements := 5, indicatorMask := 0b010000#6, sig := defaultSig.set 5 ⟨0, 1⟩
      speedPrec := 0, rollSpeed := 2, rollPeriod := 2, speedW := 2, timerW := 2
      blinkMax := 0, blinkTimerW := 1 }.wellFormed = true := by decide
theorem witness_EveryCommandCompletes : (State.reset.present ⟨0xFF#8, 0#128⟩).cfg.wellFormed = true ∧
    (State.reset.present ⟨0xFF#8, 0#128⟩).host = .command ⟨0xFF#8, 0#128⟩ :: [] := by decide
theorem witness_EveryStepOfALegalConfigurationAnswers : State.reset.cfg.wellFormed = true ∧
    State.reset.presented ≠ .reset := by decide
theorem witness_StepTakesOneChoiceAndKeepsTheConfiguration :
    ∃ t, step (State.reset.present ⟨0xE1#8, 0#128⟩) = .next t := ⟨_, rfl⟩
theorem witness_ResponseOfEveryCommand : (∃ t, exec .prngNext State.reset = .next t) ∧
    (∃ t, exec .prngGet State.reset = .next t) ∧
    ∃ t r, exec .rollUpdate { downState with timer := 48 } = .next t ∧ t.resp = some r ∧
      r.event ≠ 0b00#2 :=
  ⟨⟨_, rfl⟩, ⟨_, rfl⟩, _, _, rfl, rfl, by decide⟩
theorem witness_ResetEventRestoresTheResetValues : { State.reset with host := [HostAction.reset] }.cfg.wellFormed = true ∧
    { State.reset with host := [HostAction.reset] }.host = .reset :: [] := by decide
theorem witness_ResetEventKeepsTheModelsOwnFields :
    { State.reset with host := [HostAction.reset] }.host = .reset :: [] ∧
    ∃ t, step { State.reset with host := [HostAction.reset] } = .next t := ⟨rfl, _, rfl⟩
theorem witness_StepKeepsTheDebouncerInvariant : DebouncerInvariant restState ∧
    ∃ t, step (restState.present ⟨0x61#8, 0#128⟩) = .next t := ⟨rest_debouncer, _, rfl⟩
theorem witness_StepKeepsTheRollInvariant : RollInvariant downState ∧
    ∃ t, step (downState.present ⟨0x90#8, 0#128⟩) = .next t :=
  ⟨down_roll, _, rfl⟩
theorem witness_StepKeepsTheLedInvariant : LedInvariant litState ∧
    ∃ t, step (litState.present ⟨0xD0#8, 0#128⟩) = .next t :=
  ⟨lit_led, _, rfl⟩
theorem witness_StepKeepsAFloatBeforeEverySignature : DriveLogInvariant litState ∧
    ∃ t, step (litState.present ⟨0xD0#8, 0#128⟩) = .next t :=
  ⟨⟨by decide, by decide⟩, _, rfl⟩
theorem witness_RegistersStayWithinTheirWidths : restState.cfg.wellFormed = true ∧
    RollInvariant restState ∧ LedInvariant restState := ⟨by decide, rest_roll, rest_led⟩
theorem witness_LinesCarryAtMostOneSegment : litState.cfg.wellFormed = true ∧ LedInvariant litState :=
  ⟨by decide, lit_led⟩
theorem witness_PrngNextDrawsAndUpdates : (seeded 1 2 3 4).prng = ⟨1, 2, 3, 4⟩ := rfl
theorem witness_AllZeroStateIsAFixedPoint : (seeded 0 0 0 0).prng = .zero ∧
    (∃ t, exec .prngJump (seeded 0 0 0 0) = .next t) ∧ (∃ t, exec .prngNext (seeded 0 0 0 0) = .next t) ∧
    ∃ t, exec .rollSlow (seeded 0 0 0 0) = .next t := ⟨rfl, ⟨_, rfl⟩, ⟨_, rfl⟩, _, rfl⟩
theorem witness_NoOtherCommandMakesTheStateAllZero : (seeded 0 0 0 1).prng ≠ .zero ∧
    (∃ t, exec .prngJump (seeded 0 0 0 1) = .next t) ∧
    (∃ t, exec (.prngSet 1#128) (seeded 0 0 0 1) = .next t) ∧
    Instr.prngJump ≠ .prngSet 0#128 ∧ Instr.prngSet 1#128 ≠ .prngSet 0#128 :=
  ⟨by decide, ⟨_, rfl⟩, ⟨_, rfl⟩, by decide, by decide⟩
theorem witness_OnlyTheseCommandsWriteThePrng :
    (∃ t, exec .rollSlow (seeded 1 2 3 4) = .next t) ∧
    ∃ t, exec .rollUpdate (seeded 1 2 3 4) = .next t ∧ t.prng ≠ (seeded 1 2 3 4).prng :=
  ⟨⟨_, rfl⟩, _, rfl, by decide⟩
theorem witness_DebReadShiftsFiltersAndTags :
    0x01#8 = (seeded 1 2 3 4).hist.extractLsb' 0 7 ++ BitVec.ofBool true ∧
    false = (if 0x01#8 = BitVec.allOnes 8 then true else if 0x01#8 = 0#8 then false
      else (seeded 1 2 3 4).deb) ∧
    0b00#2 = (seeded 1 2 3 4).edge.extractLsb' 0 1 ++ BitVec.ofBool false := by decide
theorem witness_ButtonStateFollowsTheTransitionTable :
    (DebouncerInvariant restState ∧ ButtonState.ofCode restState.edge = .up) ∧
    (DebouncerInvariant downEdgeState ∧ ButtonState.ofCode downEdgeState.edge = .downEdge) ∧
    (DebouncerInvariant downState ∧ ButtonState.ofCode downState.edge = .down) ∧
    (DebouncerInvariant upEdgeState ∧ ButtonState.ofCode upEdgeState.edge = .upEdge) :=
  ⟨⟨rest_debouncer, by decide⟩, ⟨downEdge_debouncer, by decide⟩, ⟨down_debouncer, by decide⟩,
    upEdge_debouncer, by decide⟩
theorem witness_NoiseChangesNeitherFlagNorEdge :
    (State.reset.hist = 0x00#8 ∧ State.reset.deb = false ∧ State.reset.edge = ButtonState.up.code ∧
      ¬ List.replicate 8 true <:+: List.replicate 7 true ++ [false]) ∧
    (downState.hist = 0xFF#8 ∧ downState.deb = true ∧ downState.edge = ButtonState.down.code ∧
      ¬ List.replicate 8 false <:+: List.replicate 7 false ++ [true]) := by decide
theorem witness_EdgesAreAtLeastEightReadsApart :
    (DebouncerInvariant downEdgeState ∧ downEdgeState.edge = ButtonState.downEdge.code ∧
      1 ≤ (List.replicate 7 false).length ∧ (List.replicate 7 false).length ≤ 7) ∧
    (DebouncerInvariant upEdgeState ∧ upEdgeState.edge = ButtonState.upEdge.code ∧
      1 ≤ [true].length ∧ [true].length ≤ 7) :=
  ⟨⟨downEdge_debouncer, by decide⟩, upEdge_debouncer, by decide⟩
theorem witness_RollStartSetsPressedAndSpeed : State.reset.cfg.wellFormed = true := by decide
theorem witness_RollSlowDrawsTheFace : (seeded 0x12345678 0 0 0).cfg.wellFormed = true ∧
    (3#3).toNat = (seeded 0x12345678 0 0 0).prng.output.toNat % 6 := by decide

/-- The premises of `RollUpdateCaseByCase` on a state. -/
abbrev rollPremises (s : State) : Prop :=
  s.cfg.wellFormed = true ∧ s.timer < s.cfg.rollPeriod ∧ s.speed ≤ s.cfg.rollSpeed

/-- A slowing state. -/
def slowState (v m : Nat) : State := { seeded 1 2 3 4 with speed := v, timer := m }

theorem witness_RollUpdateCaseByCase_idle : rollPremises (seeded 1 2 3 4) ∧ (seeded 1 2 3 4).speed = 0 := by decide
theorem witness_RollUpdateCaseByCase_stop : rollPremises (slowState 1 63) ∧ (slowState 1 63).pressed = false ∧
    (slowState 1 63).speed = 1 := by decide
theorem witness_RollUpdateCaseByCase_literal_slowing :
    rollPremises { slowState 2 0 with cfg := { defaultConfig with slowAccumulates := false } } ∧
    (slowState 2 0).pressed = false ∧ 2 ≤ (slowState 2 0).speed := by decide
theorem witness_RollUpdateCaseByCase_accumulates :
    (rollPremises { downState with timer := 47 } ∧ 1 ≤ downState.speed ∧
      47 + downState.speed / 2 ^ defaultConfig.speedPrec < defaultConfig.rollPeriod) ∧
    (rollPremises downState ∧ defaultConfig.rollPeriod ≤ 48 + downState.speed / 2 ^ defaultConfig.speedPrec ∧
      (1#3).toNat = (downState.face.toNat + 1) % 6) ∧
    (rollPremises (slowState 17 63) ∧ (slowState 17 63).cfg.slowAccumulates = true ∧
      defaultConfig.rollPeriod ≤ 63 + 16 / 2 ^ defaultConfig.speedPrec) ∧
    (rollPremises (slowState 2 63) ∧ 63 + 1 / 2 ^ defaultConfig.speedPrec < defaultConfig.rollPeriod) := by
  decide
theorem witness_RollStatesFollowTheTransitionTable :
    (RollInvariant restState ∧ restState.rollMode = some .idle) ∧
    (RollInvariant downState ∧ downState.rollMode = some .rolling) ∧
    (RollInvariant (slowState 128 63) ∧ (slowState 128 63).rollMode = some .slowing) ∧
    (RollInvariant (slowState 1 0) ∧ (slowState 1 0).rollMode = some .slowing) :=
  ⟨⟨rest_roll, by decide⟩, ⟨down_roll, by decide⟩,
    ⟨⟨by decide, by decide, by decide, by decide⟩, by decide⟩,
    ⟨by decide, by decide, by decide, by decide⟩, by decide⟩
theorem witness_RestingFaceFollowsTheDraw : (downState.cfg = defaultConfig ∧ downState.timer < 64) ∧
    { defaultConfig with slowAccumulates := false }.wellFormed = true ∧
    { downState with cfg := { defaultConfig with slowAccumulates := false } }.cfg.slowAccumulates = false := by
  decide
theorem witness_LedPutLoadsOrRejects :
    [0b010000#6, 0b000001#6, 0b001001#6, 0b000011#6, 0b001011#6, 0b000111#6][(5#3).toNat]? =
      some 0b000111#6 ∧ 6 ≤ (6#3).toNat ∧ 6 ≤ (7#3).toNat := by decide

/-- The premises of `LedUpdateScansOneSegment`. -/
abbrev ledPremises (s : State) (k : Nat) (a c : Fin 3) (lit : Bool) (count : BitVec 3) (timer : Nat) : Prop :=
  s.cfg.wellFormed = true ∧ s.scan.toNat < s.cfg.numElements ∧
  k = (s.scan.toNat + 1) % s.cfg.numElements ∧ s.cfg.sig.toList[k]? = some ⟨a, c⟩ ∧
  lit = ((s.blinkCount.toNat % 2 == 0 && s.pattern.getLsbD k) || s.cfg.indicatorMask.getLsbD k) ∧
  count.toNat = (if s.blinkTimer = 0 then s.blinkCount.toNat - 1 else s.blinkCount.toNat) ∧
  timer = (if s.blinkCount = 0#3 then s.blinkTimer
    else if s.blinkTimer = 0 then s.cfg.blinkMax else s.blinkTimer - 1)

theorem witness_LedUpdateScansOneSegment_lit_wrap :
    ledPremises { litState with scan := 5, pattern := 0b000011 } 0 0 1 true 0 0 := by decide
theorem witness_LedUpdateScansOneSegment_dark_blink :
    ledPremises { litState with blinkCount := 5 } 5 2 0 false 4 63 := by decide
theorem witness_LedUpdateScansOneSegment_five_elements :
    ledPremises { litState with cfg := { defaultConfig with numElements := 5 }, blinkCount := 2, blinkTimer := 63 }
      0 0 1 false 2 62 := by decide

theorem witness_SignatureDrivesTwoLines : (SegmentSig.mk 0 2).anode ≠ (SegmentSig.mk 0 2).cathode := by decide
theorem witness_OneScanVisitsEverySegmentOnce : State.reset.cfg.wellFormed = true ∧
    State.reset.scan.toNat < State.reset.cfg.numElements ∧ (5#3).toNat < State.reset.cfg.numElements := by decide
theorem witness_TickKeepsRollAndButtonTogether : downState.cfg.wellFormed = true ∧
    DebouncerInvariant downState ∧ RollInvariant downState ∧ downState.pressed = downState.deb :=
  ⟨by decide, down_debouncer, down_roll, by decide⟩
theorem witness_TickKeepsRollAndButtonTogether_edges :
    (∃ t, exec (.tick true) { seeded 1 2 3 4 with hist := 0x7F } = .next t ∧ t.edge = ButtonState.downEdge.code) ∧
    ∃ t, exec (.tick false) { downState with hist := 0x80 } = .next t ∧ t.edge = ButtonState.upEdge.code :=
  ⟨⟨_, rfl, by decide⟩, _, rfl, by decide⟩
theorem witness_TickDrawsByButtonState : DebouncerInvariant downState ∧ downState.pressed = downState.deb :=
  ⟨down_debouncer, by decide⟩
theorem witness_WhatDoesNotDependOnThePrngState :
    ∃ t, exec (.tick true) downState = .next t ∧ Instr.tick true ≠ .rollSlow ∧
      Instr.tick true ≠ .prngNext ∧ Instr.tick true ≠ .prngGet ∧
      t.edge ≠ ButtonState.upEdge.code := ⟨_, rfl, by decide, by decide, by decide, by decide⟩
theorem witness_RepeatedCommandChangesNothing : (∃ f, Instr.ledPut 7 = .ledPut f) ∧
    (∃ t, exec (.ledPut 7) litState = .next t) ∧ ∃ t, exec .ledBlink litState = .next t :=
  ⟨⟨7, rfl⟩, ⟨_, rfl⟩, _, rfl⟩
theorem witness_PrngJumpIsTwoToTheSixtyFourDraws : ∃ n : Nat, 2 ^ 64 ≤ n ∧ n ≤ 2 ^ 64 :=
  ⟨2 ^ 64, le_rfl, le_rfl⟩
theorem witness_PrngLjumpIsTwoToTheNinetySixDraws : ∃ n : Nat, 2 ^ 96 ≤ n ∧ n ≤ 2 ^ 96 :=
  ⟨2 ^ 96, le_rfl, le_rfl⟩
theorem witness_PrngGetReturnsTheState : (seeded 5 6 7 8).prng = ⟨5, 6, 7, 8⟩ := rfl
theorem witness_ExactlyOneStopPerSlowdown : (slowState 1 0).cfg.wellFormed = true := by decide
theorem witness_LedBlinkStartsFivePhases : litState.cfg.wellFormed = true := by decide
theorem witness_BlinkRunsFivePhasesAndStops :
    { litState with cfg := { defaultConfig with blinkMax := 0 } }.cfg.wellFormed = true := by decide

end Sys2Proof.Tests
end

