-- ==== Sys2Proof/Proofs/ResetState.lean ====
section
/-! SUPPORT. What each register holds after power-on (10_state.md R33), one rule per register in the
order of R33, and O13 assembled from them. `s` has no rule: R33 leaves it unspecified. -/

namespace Sys2Proof.Machine

/-! ### The debouncer -/

@[simp] theorem State.reset_hist : State.reset.hist = 0x00#8 := rfl
@[simp] theorem State.reset_deb : State.reset.deb = false := rfl
@[simp] theorem State.reset_edge : State.reset.edge = 0b00#2 := rfl

/-! ### The roll engine -/

@[simp] theorem State.reset_pressed : State.reset.pressed = false := rfl
@[simp] theorem State.reset_speed : State.reset.speed = 0 := rfl
@[simp] theorem State.reset_timer : State.reset.timer = 0 := rfl
@[simp] theorem State.reset_face : State.reset.face = 0#3 := rfl

/-! ### The LED unit -/

@[simp] theorem State.reset_pattern : State.reset.pattern = 0b000000#6 := rfl
@[simp] theorem State.reset_blinkCount : State.reset.blinkCount = 0#3 := rfl
@[simp] theorem State.reset_blinkTimer : State.reset.blinkTimer = 0 := rfl
@[simp] theorem State.reset_scan : State.reset.scan = 0#3 := rfl
@[simp] theorem State.reset_lineOe : State.reset.lineOe = 0b000#3 := rfl
@[simp] theorem State.reset_lineLvl : State.reset.lineLvl = 0b000#3 := rfl

/-- Settles O13, register by register: the debouncer, the roll engine, the LED unit. -/
theorem resetStateHoldsTheResetValues : Obligations.ResetStateHoldsTheResetValues :=
  ⟨State.reset_hist, State.reset_deb, State.reset_edge,
    State.reset_pressed, State.reset_speed, State.reset_timer, State.reset_face,
    State.reset_pattern, State.reset_blinkCount, State.reset_blinkTimer,
    State.reset_scan, State.reset_lineOe, State.reset_lineLvl⟩

end Sys2Proof.Machine
end

