-- ==== Sys2Proof/Proofs/StateBlock.lean ====
section
/-! SUPPORT. The PRNG state block (20_memory.md R46) as four words and as sixteen bytes: one rule per
word of a packed state, one for each byte of a block, what the bytes give back, and O30 assembled
from them. -/

namespace Sys2Proof.Machine

/-! ### The four words of the block -/

@[simp] theorem PrngState.toBlock_word0 (p : PrngState) : p.toBlock.extractLsb' 0 32 = p.s0 :=
  BitVec.extractLsb'_append_eq_right

@[simp] theorem PrngState.toBlock_word1 (p : PrngState) : p.toBlock.extractLsb' 32 32 = p.s1 :=
  calc p.toBlock.extractLsb' 32 32
    _ = (p.s3 ++ p.s2 ++ p.s1).extractLsb' 0 32 := BitVec.extractLsb'_append_eq_of_le (by decide)
    _ = p.s1 := BitVec.extractLsb'_append_eq_right

@[simp] theorem PrngState.toBlock_word2 (p : PrngState) : p.toBlock.extractLsb' 64 32 = p.s2 :=
  calc p.toBlock.extractLsb' 64 32
    _ = (p.s3 ++ p.s2 ++ p.s1).extractLsb' 32 32 := BitVec.extractLsb'_append_eq_of_le (by decide)
    _ = (p.s3 ++ p.s2).extractLsb' 0 32 := BitVec.extractLsb'_append_eq_of_le (by decide)
    _ = p.s2 := BitVec.extractLsb'_append_eq_right

@[simp] theorem PrngState.toBlock_word3 (p : PrngState) : p.toBlock.extractLsb' 96 32 = p.s3 :=
  calc p.toBlock.extractLsb' 96 32
    _ = (p.s3 ++ p.s2 ++ p.s1).extractLsb' 64 32 := BitVec.extractLsb'_append_eq_of_le (by decide)
    _ = (p.s3 ++ p.s2).extractLsb' 32 32 := BitVec.extractLsb'_append_eq_of_le (by decide)
    _ = p.s3 := BitVec.extractLsb'_append_eq_left

theorem PrngState.toBlock_word (p : PrngState) {i : Nat} (hi : i < 4) :
    p.toBlock.extractLsb' (32 * i) 32 = [p.s0, p.s1, p.s2, p.s3].getD i 0#32 := by
  match i with
  | 0 => exact p.toBlock_word0
  | 1 => exact p.toBlock_word1
  | 2 => exact p.toBlock_word2
  | 3 => exact p.toBlock_word3

/-! ### The sixteen bytes of the block -/

@[simp] theorem blockBytes_length (w : Block) : (blockBytes w).length = 16 := by
  simp [blockBytes]

theorem blockBytes_getElem? (w : Block) {j : Nat} (hj : j < 16) :
    (blockBytes w)[j]? = some (w.extractLsb' (8 * j) 8) := by
  simp [blockBytes, hj]

/-- A slice of a slice is a slice of the whole. -/
theorem extractLsb'_extractLsb'_of_add_le {v : Nat} (x : BitVec v) {a b m n : Nat} (h : a + n ≤ m) :
    (x.extractLsb' b m).extractLsb' a n = x.extractLsb' (b + a) n := by
  ext k hk
  have hm : a + k < m := by omega
  simp [hm, Nat.add_assoc]

/-- Byte `j` of the block lies inside word `j / 4`: no byte straddles two words. -/
theorem byte_eq_byte_of_word (w : Block) (j : Nat) :
    w.extractLsb' (8 * j) 8 = (w.extractLsb' (32 * (j / 4)) 32).extractLsb' (8 * (j % 4)) 8 := by
  have hsum : 32 * (j / 4) + 8 * (j % 4) = 8 * j := by omega
  rw [extractLsb'_extractLsb'_of_add_le w (by omega), hsum]

theorem blockBytes_toBlock_getElem? (p : PrngState) {j : Nat} (hj : j < 16) :
    (blockBytes p.toBlock)[j]? =
      some (([p.s0, p.s1, p.s2, p.s3].getD (j / 4) 0#32).extractLsb' (8 * (j % 4)) 8) := by
  rw [blockBytes_getElem? _ hj, byte_eq_byte_of_word, p.toBlock_word (by omega)]

/-! ### The block its bytes determine -/

/-- Bit `i` of the block is bit `i mod 8` of byte `i / 8`; the bytes not given are 0. -/
theorem blockOfBytes_getLsbD (bs : List Byte) {i : Nat} (hi : i < 128) :
    (blockOfBytes bs).getLsbD i = (bs[i / 8]?.getD 0#8).getLsbD (i % 8) := by
  induction bs generalizing i with
  | nil => simp [blockOfBytes]
  | cons b bs ih =>
    by_cases hlow : i < 8
    · simp [blockOfBytes, hi, hlow, Nat.div_eq_of_lt hlow, Nat.mod_eq_of_lt hlow]
    · obtain ⟨k, rfl⟩ : ∃ k, i = k + 8 := ⟨i - 8, by omega⟩
      have hk : k < 128 := by omega
      simp [blockOfBytes, hi, hk, ← ih hk]

theorem blockOfBytes_blockBytes (w : Block) : blockOfBytes (blockBytes w) = w := by
  refine BitVec.eq_of_getLsbD_eq fun i hi => ?_
  have hbyte : (blockBytes w)[i / 8]? = some (w.extractLsb' (8 * (i / 8)) 8) :=
    blockBytes_getElem? w (by omega)
  have hmod : i % 8 < 8 := Nat.mod_lt i (by decide)
  rw [blockOfBytes_getLsbD _ hi, hbyte, Option.getD_some, BitVec.getLsbD_extractLsb',
    Nat.div_add_mod, decide_eq_true hmod, Bool.true_and]

/-- Settles O30: a byte lies inside one word, and the block is rebuilt bit by bit from its bytes. -/
theorem stateBlockIsLittleEndian : Obligations.StateBlockIsLittleEndian :=
  ⟨fun p j => blockBytes_toBlock_getElem? p j.isLt,
    fun w => ⟨blockBytes_length w, blockOfBytes_blockBytes w⟩⟩

end Sys2Proof.Machine
end

