-- ==== Sys2Proof/Proofs/Decoding.lean ====
section
/-! SUPPORT. The decoder against the opcode map (30_encoding.md R56 to R59): a word as its two
nibbles, what each format accepts, what a row selects, what a decoded pair holds; and O2 and O3
assembled from them. -/

namespace Sys2Proof

open Sys2Proof.Machine

/-! ### The two nibbles of a word (R56) -/

theorem Command.cw_eq_op_append_imm (c : Command) : c.cw = c.op ++ c.imm := by
  have h : c.op ++ c.imm = c.cw.extractLsb' 0 8 :=
    BitVec.extractLsb'_append_extractLsb'_eq_extractLsb' rfl
  rw [h, BitVec.extractLsb'_eq_self]

/-- Words with the same nibbles are the same word. -/
theorem Command.cw_eq_of_op_of_imm {c d : Command} (hop : c.op = d.op) (himm : c.imm = d.imm) :
    c.cw = d.cw := by
  rw [c.cw_eq_op_append_imm, d.cw_eq_op_append_imm, hop, himm]

/-- `sample` lies in `imm` (R58). -/
theorem Command.cw_bit_zero (c : Command) : c.cw.getLsbD 0 = c.imm.getLsbD 0 := by
  simp [Command.imm]

/-- `f` lies in `imm` (R58). -/
theorem Command.cw_low_three (c : Command) : c.cw.extractLsb' 0 3 = c.imm.extractLsb' 0 3 :=
  (extractLsb'_extractLsb'_of_add_le c.cw (show 0 + 3 ≤ 4 by decide)).symm

/-! ### What each format accepts (R56): the bits of `imm` outside the operand are 0 -/

theorem decodeZero_of_mask {c : Command} (i : Instr) (h : c.imm &&& 0xF#4 = 0#4) :
    decodeZero c i = .ok i := by
  have hz : ∀ m : BitVec 4, m &&& 0xF#4 = 0#4 → m = 0#4 := by decide
  exact if_pos (hz _ h)

theorem decodeSample_of_mask {c : Command} (f : Bool → Instr) (h : c.imm &&& 0xE#4 = 0#4) :
    decodeSample c f = .ok (f (c.cw.getLsbD 0)) := by
  have hz : ∀ m : BitVec 4, m &&& 0xE#4 = 0#4 → m.extractLsb' 1 3 = 0#3 := by decide
  exact if_pos (hz _ h)

theorem decodeFace_of_mask {c : Command} (f : BitVec 3 → Instr) (h : c.imm &&& 0x8#4 = 0#4) :
    decodeFace c f = .ok (f (c.cw.extractLsb' 0 3)) := by
  have hz : ∀ m : BitVec 4, m &&& 0x8#4 = 0#4 → m.getLsbD 3 = false := by decide
  exact if_pos (hz _ h)

theorem eq_of_decodeZero {c : Command} {i j : Instr} (h : decodeZero c i = .ok j) :
    i = j ∧ c.imm = 0#4 := by
  unfold decodeZero at h
  split at h
  · next hz => exact ⟨Except.ok.inj h, hz⟩
  · cases h

theorem eq_of_decodeSample {c : Command} {f : Bool → Instr} {j : Instr}
    (h : decodeSample c f = .ok j) : ∃ x, f x = j ∧ c.imm = (BitVec.ofBool x).setWidth 4 := by
  have himm : ∀ m : BitVec 4, m.extractLsb' 1 3 = 0#3 →
      m = (BitVec.ofBool (m.getLsbD 0)).setWidth 4 := by decide
  unfold decodeSample at h
  split at h
  · next hz => exact ⟨_, Except.ok.inj h, c.cw_bit_zero ▸ himm _ hz⟩
  · cases h

theorem eq_of_decodeFace {c : Command} {f : BitVec 3 → Instr} {j : Instr}
    (h : decodeFace c f = .ok j) : ∃ x, f x = j ∧ c.imm = x.setWidth 4 := by
  have himm : ∀ m : BitVec 4, m.getLsbD 3 = false → m = (m.extractLsb' 0 3).setWidth 4 := by decide
  unfold decodeFace at h
  split at h
  · next hz => exact ⟨_, Except.ok.inj h, c.cw_low_three ▸ himm _ hz⟩
  · cases h

/-! ### What a decoded pair holds -/

/-- The pair is `i`'s: the word of `i` and, under PRNG.SET, its data (R55). -/
def Command.Encodes (c : Command) (i : Instr) : Prop :=
  c.cw = encodeWord i ∧ ∀ w, i = .prngSet w → c.wdata = w

theorem Command.encodes_of_nibbles {c : Command} {i : Instr} {o m : BitVec 4}
    (henc : (encode i).op = o ∧ (encode i).imm = m) (hop : c.op.toNat = o.toNat) (himm : c.imm = m)
    (hdata : ∀ w, i = .prngSet w → c.wdata = w) : c.Encodes i := by
  obtain ⟨rfl, rfl⟩ := henc
  exact ⟨Command.cw_eq_of_op_of_imm (d := encode i) (BitVec.eq_of_toNat_eq hop) himm, hdata⟩

theorem encodeWord_prngSet (w : Block) : encodeWord (.prngSet w) = 0x50#8 := rfl

theorem encode_prngSet_nibbles (w : Block) :
    (encode (.prngSet w)).op = 0x5#4 ∧ (encode (.prngSet w)).imm = 0x0#4 := by
  simp [encode, Command.op, Command.imm, encodeWord_prngSet]

theorem encode_debRead_nibbles (x : Bool) : (encode (.debRead x)).op = 0x6#4 ∧
    (encode (.debRead x)).imm = (BitVec.ofBool x).setWidth 4 := by
  cases x <;> exact ⟨rfl, rfl⟩

theorem encode_tick_nibbles (x : Bool) : (encode (.tick x)).op = 0xE#4 ∧
    (encode (.tick x)).imm = (BitVec.ofBool x).setWidth 4 := by
  cases x <;> exact ⟨rfl, rfl⟩

theorem encode_ledPut_nibbles (f : BitVec 3) : (encode (.ledPut f)).op = 0xA#4 ∧
    (encode (.ledPut f)).imm = f.setWidth 4 := by
  revert f
  decide

/-- All that the decoder can accept: a pair that is some command's, and it answers that command. -/
theorem Command.encodes_of_decode {c : Command} {i : Instr} (h : decode c = .ok i) : c.Encodes i := by
  unfold decode at h
  split at h
  case h_6 hop =>
    obtain ⟨rfl, himm⟩ := eq_of_decodeZero h
    exact encodes_of_nibbles (encode_prngSet_nibbles _) hop himm fun _ hw => Instr.prngSet.inj hw
  case h_7 hop =>
    obtain ⟨x, rfl, himm⟩ := eq_of_decodeSample h
    exact encodes_of_nibbles (encode_debRead_nibbles x) hop himm nofun
  case h_11 hop =>
    obtain ⟨f, rfl, himm⟩ := eq_of_decodeFace h
    exact encodes_of_nibbles (encode_ledPut_nibbles f) hop himm nofun
  case h_15 hop =>
    obtain ⟨x, rfl, himm⟩ := eq_of_decodeSample h
    exact encodes_of_nibbles (encode_tick_nibbles x) hop himm nofun
  case h_16 => cases h
  all_goals
    next hop =>
      obtain ⟨rfl, himm⟩ := eq_of_decodeZero h
      exact encodes_of_nibbles ⟨rfl, rfl⟩ hop himm nofun

/-! ### What a row of the opcode map selects (R59) -/

/-- A row fixes the opcode and the bits of `imm` under its mask, which it wants 0. -/
theorem OpcodeRow.nibbles_of_selects {r : OpcodeRow} (hr : r ∈ opcodeMap) {c : Command}
    (h : r.selects c.cw = true) :
    c.op = r.pattern.extractLsb' 4 4 ∧ c.imm &&& r.mask.extractLsb' 0 4 = 0#4 := by
  have hrows : ∀ q ∈ opcodeMap, q.mask.extractLsb' 4 4 = BitVec.allOnes 4 ∧
      q.pattern.extractLsb' 0 4 = 0#4 := by decide
  obtain ⟨hmask, hlow⟩ := hrows r hr
  have hsel : c.cw &&& r.mask = r.pattern := by simpa [selects] using h
  constructor
  · rw [← hsel, BitVec.extractLsb'_and, hmask, BitVec.and_allOnes]
    rfl
  · rw [← hlow, ← hsel, BitVec.extractLsb'_and]
    rfl

theorem OpcodeRow.eq_of_selects {r q : OpcodeRow} (hr : r ∈ opcodeMap) (hq : q ∈ opcodeMap) {cw : Byte}
    (hrc : r.selects cw = true) (hqc : q.selects cw = true) : r = q := by
  have hdistinct : ∀ r ∈ opcodeMap, ∀ q ∈ opcodeMap,
      r.pattern.extractLsb' 4 4 = q.pattern.extractLsb' 4 4 → r = q := by decide
  obtain ⟨hrop, -⟩ := nibbles_of_selects hr (c := ⟨cw, 0#128⟩) hrc
  obtain ⟨hqop, -⟩ := nibbles_of_selects hq (c := ⟨cw, 0#128⟩) hqc
  exact hdistinct r hr q hq (hrop.symm.trans hqop)

/-- A word that selects a row is accepted, as a command of that row. -/
theorem OpcodeRow.decode_of_selects {r : OpcodeRow} (hr : r ∈ opcodeMap) {c : Command}
    (h : r.selects c.cw = true) : ∃ i, decode c = .ok i ∧ i.mnemonic = r.mnemonic := by
  obtain ⟨hop, himm⟩ := nibbles_of_selects hr h
  unfold decode
  rw [hop]
  simp only [opcodeMap, List.mem_cons, List.not_mem_nil, or_false] at hr
  rcases hr with rfl | rfl | rfl | rfl | rfl | rfl | rfl | rfl | rfl | rfl | rfl | rfl | rfl | rfl | rfl
  on_goal 7 => exact ⟨_, decodeSample_of_mask _ himm, rfl⟩
  on_goal 10 => exact ⟨_, decodeFace_of_mask _ himm, rfl⟩
  on_goal 13 => exact ⟨_, decodeSample_of_mask _ himm, rfl⟩
  all_goals exact ⟨_, decodeZero_of_mask _ himm, rfl⟩

/-- The word of a command selects the command's row. -/
theorem exists_row_of_encodeWord (i : Instr) :
    ∃ r ∈ opcodeMap, r.selects (encodeWord i) = true ∧ r.mnemonic = i.mnemonic := by
  cases i with
  | prngSet w => rw [encodeWord_prngSet, Instr.mnemonic]; decide
  | debRead x => revert x; decide
  | ledPut f => revert f; decide
  | tick x => revert x; decide
  | _ => decide

/-- An accepted word selects its command's row. -/
theorem exists_row_of_decode {c : Command} {i : Instr} (h : decode c = .ok i) :
    ∃ r ∈ opcodeMap, r.selects c.cw = true ∧ r.mnemonic = i.mnemonic := by
  obtain ⟨hcw, -⟩ := Command.encodes_of_decode h
  rw [hcw]
  exact exists_row_of_encodeWord i

/-- The words that R59 lists. -/
def definedWords : List Nat :=
  [0x00, 0x10, 0x20, 0x30, 0x40, 0x50, 0x60, 0x61, 0x70, 0x80, 0x90, 0xA0, 0xA1, 0xA2,
    0xA3, 0xA4, 0xA5, 0xA6, 0xA7, 0xB0, 0xC0, 0xD0, 0xE0, 0xE1]

theorem encodeWord_mem_definedWords (i : Instr) : (encodeWord i).toNat ∈ definedWords := by
  cases i with
  | prngSet w => rw [encodeWord_prngSet]; decide
  | debRead x => revert x; decide
  | ledPut f => revert f; decide
  | tick x => revert x; decide
  | _ => decide

theorem selects_some_row_iff (cw : Byte) :
    (∃ r ∈ opcodeMap, r.selects cw = true) ↔ cw.toNat ∈ definedWords := by
  constructor
  · rintro ⟨r, hr, h⟩
    obtain ⟨i, hi, -⟩ := OpcodeRow.decode_of_selects hr (c := ⟨cw, 0#128⟩) h
    obtain ⟨hcw, -⟩ := Command.encodes_of_decode hi
    rw [show cw = encodeWord i from hcw]
    exact encodeWord_mem_definedWords i
  · have hlisted : ∀ n ∈ definedWords, ∃ r ∈ opcodeMap, r.selects (BitVec.ofNat 8 n) = true := by
      decide
    intro h
    simpa using hlisted _ h

/-- Settles O2: acceptance row by row, the inversion of the decoder, the rows' distinct opcodes, and
the words of the commands. -/
theorem decodeFollowsTheOpcodeMap : Obligations.DecodeFollowsTheOpcodeMap :=
  ⟨fun _ _ hr h => OpcodeRow.decode_of_selects hr h, fun _ _ h => exists_row_of_decode h,
    fun _ _ _ hr hq hrc hqc => OpcodeRow.eq_of_selects hr hq hrc hqc, selects_some_row_iff⟩

/-! ### The operands (R58) -/

theorem encodeWord_debRead_bit_zero (x : Bool) : (encodeWord (.debRead x)).getLsbD 0 = x := by
  cases x <;> rfl

theorem encodeWord_tick_bit_zero (x : Bool) : (encodeWord (.tick x)).getLsbD 0 = x := by
  cases x <;> rfl

theorem encodeWord_ledPut_low_three (f : BitVec 3) :
    (encodeWord (.ledPut f)).extractLsb' 0 3 = f := by
  revert f
  decide

/-- PRNG.SET loads the four words of its data (40_prng.md R87). -/
theorem exec_prngSet (w : Block) (s : State) :
    exec (.prngSet w) s = .next { s with prng := PrngState.ofBlock w }.respondPlain := rfl

/-- Settles O3: an accepted word is its command's, whose operand stands in the low bits. -/
theorem operandsAreTheLowBits : Obligations.OperandsAreTheLowBits := by
  refine ⟨fun c x h => ?_, fun c x h => ?_, fun c f h => ?_, fun c w s h => ?_⟩ <;>
    obtain ⟨hcw, hdata⟩ := Command.encodes_of_decode h
  · rw [hcw, encodeWord_debRead_bit_zero]
  · rw [hcw, encodeWord_tick_bit_zero]
  · rw [hcw, encodeWord_ledPut_low_three]
  · obtain rfl := hdata w rfl
    exact ⟨_, exec_prngSet c.wdata s, rfl, rfl, rfl, rfl⟩

end Sys2Proof
end

