-- ==== Sys2Proof/Proofs/ReservedWord.lean ====
section
/-! SUPPORT. A reserved word (30_encoding.md R61) is rejected by the decoder, and the step at which the
host presents it; O6 assembled from the two. -/

namespace Sys2Proof.Machine

/-- A word that selects no row is rejected: every accepted word selects its command's row. -/
theorem decode_error_of_no_row {c : Command} (h : ∀ r ∈ opcodeMap, r.selects c.cw = false) :
    ∃ e, decode c = .error e := by
  cases hd : decode c with
  | error e => exact ⟨e, rfl⟩
  | ok i =>
    obtain ⟨r, hr, hsel, -⟩ := exists_row_of_decode hd
    simp [h r hr] at hsel

theorem State.presented_of_host {s : State} {a : HostAction} {rest : List HostAction}
    (h : s.host = a :: rest) : s.presented = a := by
  simp [State.presented, h]

theorem State.consumed_of_host {s : State} {a : HostAction} {rest : List HostAction}
    (h : s.host = a :: rest) : s.consumed = { s with host := rest } := by
  simp [State.consumed, h]

theorem step_of_decode_error {s : State} {c : Command} {e : DecodeError} (hcfg : s.cfg.wellFormed = true)
    (hp : s.presented = .command c) (hd : decode c = .error e) :
    step s = .next s.consumed.performReserved := by
  simp [step, hcfg, hp, hd]

/-- Settles O6: the step of a rejected word writes the response alone. -/
theorem reservedWordOnlySetsIll : Obligations.ReservedWordOnlySetsIll := by
  intro s c rest hcfg hhost hrow
  obtain ⟨e, hd⟩ := decode_error_of_no_row hrow
  rw [step_of_decode_error hcfg (State.presented_of_host hhost) hd, State.consumed_of_host hhost]
  rfl

end Sys2Proof.Machine
end

