-- ==== Sys2Proof/Proofs/PrngCommands.lean ====
section
/-! SUPPORT. The commands of prng_xoshiro_unit (40_prng.md): one rule per command, a draw in terms of
the old words (R82); and O23, O27 and O28 assembled from them. -/

namespace Sys2Proof.Machine

/-! ### What each command leaves, PRNG.SET's rule being `exec_prngSet` -/

theorem exec_prngNext (s : State) : exec .prngNext s =
    .next (s.draw.respond false .noEvent (s.prng.output.setWidth 128)) := rfl

theorem exec_prngJump (s : State) :
    exec .prngJump s = .next { s with prng := jumpWith jumpK s.prng }.respondPlain := rfl

theorem exec_prngLjump (s : State) :
    exec .prngLjump s = .next { s with prng := jumpWith ljumpK s.prng }.respondPlain := rfl

theorem exec_prngGet (s : State) :
    exec .prngGet s = .next (s.respond false .noEvent s.prng.toBlock) := rfl

/-- The response of a command that reports nothing of its own, in the statements' terms (R60). -/
theorem State.respondPlain_eq (s : State) :
    s.respondPlain = { s with resp := some (quietResponse s.edge s.deb s.face) } := rfl

/-! ### One draw in terms of the old words (R82) -/

theorem rotl32_eq_rotateLeft (x : Word) {k : Nat} (hk : k < 32) : rotl32 x k = x.rotateLeft k := by
  simp [rotl32, BitVec.rotateLeft_def, Nat.mod_eq_of_lt hk]

theorem PrngState.output_eq (a b c d : Word) :
    PrngState.output ⟨a, b, c, d⟩ = (a + d).rotateLeft 7 + a := by
  rw [PrngState.output, rotl32_eq_rotateLeft _ (by decide)]

theorem PrngState.advance_eq (a b c d : Word) : PrngState.advance ⟨a, b, c, d⟩ =
    ⟨a ^^^ b ^^^ d, a ^^^ b ^^^ c, a ^^^ c ^^^ (b <<< 9), (b ^^^ d).rotateLeft 11⟩ := by
  simp only [PrngState.advance, rotl32_eq_rotateLeft _ (show 11 < 32 by decide), PrngState.mk.injEq]
  refine ⟨?_, ?_, ?_, ?_⟩
  all_goals ac_rfl

/-- Settles O23: the two equations of the draw in the rule of PRNG.NEXT. -/
theorem prngNextDrawsAndUpdates : Obligations.PrngNextDrawsAndUpdates := by
  intro a b c d s hs
  rw [exec_prngNext, State.draw, hs, PrngState.output_eq, PrngState.advance_eq]
  rfl

/-- Settles O27: the block of the four words is what PRNG.GET answers. -/
theorem prngGetReturnsTheState : Obligations.PrngGetReturnsTheState := by
  intro a b c d s hs
  have hblock : s.prng.toBlock = d ++ c ++ b ++ a := by rw [hs, PrngState.toBlock]
  rw [exec_prngGet, hblock]
  rfl

/-- Settles O28: the four slices are the words that PRNG.SET loads. -/
theorem prngSetWritesTheState : Obligations.PrngSetWritesTheState := by
  intro w s
  rw [exec_prngSet, State.respondPlain_eq, PrngState.ofBlock]

end Sys2Proof.Machine
end

