-- ==== Sys2Proof/Proofs/JumpSum.lean ====
section
/-! SUPPORT. A jump as a sum (40_prng.md R83): PRNG states under exclusive or, the sum of the states
reached by draws, the jump's loop and `maskedSum` as such sums; and O24 assembled from them. -/

namespace Sys2Proof.Machine

/-! ### PRNG states under exclusive or -/

@[simp] theorem PrngState.xor_zero (p : PrngState) : p.xor .zero = p := by
  simp [PrngState.xor, PrngState.zero]

@[simp] theorem PrngState.zero_xor (p : PrngState) : PrngState.zero.xor p = p := by
  simp [PrngState.xor, PrngState.zero]

@[simp] theorem PrngState.xor_self (p : PrngState) : p.xor p = .zero := by
  simp [PrngState.xor, PrngState.zero]

theorem PrngState.xor_assoc (p q r : PrngState) : (p.xor q).xor r = p.xor (q.xor r) := by
  simp only [PrngState.xor, BitVec.xor_assoc]

theorem PrngState.xor_comm (p q : PrngState) : p.xor q = q.xor p := by
  simp only [PrngState.xor, BitVec.xor_comm]

theorem PrngState.xor_left_comm (p q r : PrngState) : p.xor (q.xor r) = q.xor (p.xor r) := by
  rw [← xor_assoc, xor_comm p q, xor_assoc]

/-- A summand that occurs twice drops out. -/
@[simp] theorem PrngState.xor_xor_cancel_left (p q : PrngState) : p.xor (p.xor q) = q := by
  rw [← xor_assoc, xor_self, zero_xor]

/-! ### A draw is linear -/

theorem rotateLeft_xor (x y : Word) (k : Nat) :
    (x ^^^ y).rotateLeft k = x.rotateLeft k ^^^ y.rotateLeft k := by
  ext i hi
  simp only [BitVec.getElem_rotateLeft, BitVec.getElem_xor]
  split <;> rfl

theorem PrngState.advance_xor (p q : PrngState) :
    (p.xor q).advance = p.advance.xor q.advance := by
  obtain ⟨a, b, c, d⟩ := p
  obtain ⟨a', b', c', d'⟩ := q
  simp only [PrngState.xor, PrngState.advance_eq, rotateLeft_xor, BitVec.shiftLeft_xor_distrib,
    PrngState.mk.injEq]
  refine ⟨?_, ?_, ?_, ?_⟩
  all_goals ac_rfl

@[simp] theorem PrngState.advance_zero : PrngState.zero.advance = .zero := rfl

theorem PrngState.iterate_advance_xor (n : Nat) (p q : PrngState) :
    PrngState.advance^[n] (p.xor q) = (PrngState.advance^[n] p).xor (PrngState.advance^[n] q) := by
  induction n with
  | zero => rfl
  | succ n ih => simp only [Function.iterate_succ_apply', ih, advance_xor]

/-! ### The sum of the states reached by draws -/

/-- The exclusive or of the states reached by `n` draws, over the `n` below `k` that `f` selects. -/
def drawSum (f : Nat → Bool) : Nat → PrngState → PrngState
  | 0, _ => .zero
  | k + 1, p => (drawSum f k p).xor (if f k then PrngState.advance^[k] p else .zero)

theorem drawSum_congr {f g : Nat → Bool} {k : Nat} (h : ∀ n < k, f n = g n) (p : PrngState) :
    drawSum f k p = drawSum g k p := by
  induction k with
  | zero => rfl
  | succ k ih => rw [drawSum, drawSum, ih fun n hn => h n (by omega), h k (by omega)]

theorem drawSum_xor (f : Nat → Bool) (k : Nat) (p q : PrngState) :
    drawSum f k (p.xor q) = (drawSum f k p).xor (drawSum f k q) := by
  induction k with
  | zero => simp [drawSum]
  | succ k ih =>
    cases hf : f k <;>
      simp [drawSum, hf, ih, PrngState.iterate_advance_xor, PrngState.xor_assoc,
        PrngState.xor_left_comm]

theorem drawSum_advance (f : Nat → Bool) (k : Nat) (p : PrngState) :
    drawSum f k p.advance = (drawSum f k p).advance := by
  induction k with
  | zero => simp [drawSum]
  | succ k ih =>
    cases hf : f k <;>
      simp [drawSum, hf, ih, PrngState.advance_xor, ← Function.iterate_succ_apply,
        Function.iterate_succ_apply']

theorem drawSum_iterate_advance (f : Nat → Bool) (k n : Nat) (p : PrngState) :
    drawSum f k (PrngState.advance^[n] p) = PrngState.advance^[n] (drawSum f k p) :=
  Function.Commute.iterate_right (f := drawSum f k) (drawSum_advance f k) n p

/-- A sum cut in two: the later summands are those of the state reached by the cut. -/
theorem drawSum_add (f : Nat → Bool) (m k : Nat) (p : PrngState) : drawSum f (m + k) p =
    (drawSum f m p).xor (drawSum (fun n => f (m + n)) k (PrngState.advance^[m] p)) := by
  induction k with
  | zero => simp [drawSum]
  | succ k ih =>
    rw [← Nat.add_assoc, drawSum, drawSum, ih, PrngState.xor_assoc, Nat.add_comm m k,
      Function.iterate_add_apply]

/-- The sum over a mask made of two: the low one first, then the high one after its draws. -/
theorem drawSum_append {m k : Nat} (hi : BitVec k) (lo : BitVec m) (p : PrngState) :
    drawSum (hi ++ lo).getLsbD (k + m) p =
      (drawSum lo.getLsbD m p).xor (drawSum hi.getLsbD k (PrngState.advance^[m] p)) := by
  have hlo : ∀ n < m, (hi ++ lo).getLsbD n = lo.getLsbD n := fun n hn => by
    rw [BitVec.getLsbD_append, if_pos hn]
  have hhi : ∀ n < k, (hi ++ lo).getLsbD (m + n) = hi.getLsbD n := fun n _ => by
    rw [BitVec.getLsbD_append, if_neg (by omega), Nat.add_sub_cancel_left]
  calc drawSum (hi ++ lo).getLsbD (k + m) p
    _ = drawSum (hi ++ lo).getLsbD (m + k) p := congrArg (drawSum _ · p) (Nat.add_comm k m)
    _ = (drawSum lo.getLsbD m p).xor (drawSum hi.getLsbD k (PrngState.advance^[m] p)) := by
      rw [drawSum_add, drawSum_congr hlo, drawSum_congr hhi]

/-! ### The model's two readings of a mask -/

theorem foldl_filter_eq_drawSum (f : Nat → Bool) (k : Nat) (p : PrngState) :
    ((List.range k).filter f).foldl (fun acc n => acc.xor (PrngState.advance^[n] p)) .zero =
      drawSum f k p := by
  induction k with
  | zero => rfl
  | succ k ih =>
    cases hf : f k <;> simp [List.range_succ, drawSum, hf, ih]

theorem maskedSum_eq_drawSum (mask : BitVec 128) (p : PrngState) :
    maskedSum mask p = drawSum mask.getLsbD 128 p :=
  foldl_filter_eq_drawSum mask.getLsbD 128 p

/-- The jump's loop adds the sum of its bits to the shadow state and draws once per bit. -/
theorem foldl_jumpBit (f : Nat → Bool) (k : Nat) (a p : PrngState) :
    (List.range k).foldl (fun x n => jumpBit (f n) x) (a, p) =
      (a.xor (drawSum f k p), PrngState.advance^[k] p) := by
  induction k with
  | zero => simp [drawSum]
  | succ k ih =>
    rw [List.range_succ, List.foldl_append, ih]
    cases hf : f k <;>
      simp [jumpBit, drawSum, hf, Function.iterate_succ_apply', PrngState.xor_assoc]

theorem jumpWord_eq (a p : PrngState) (w : Word) :
    jumpWord (a, p) w = (a.xor (drawSum w.getLsbD 32 p), PrngState.advance^[32] p) :=
  foldl_jumpBit w.getLsbD 32 a p

/-- A jump by four words is the sum over their block, word 0 the least significant. -/
theorem jumpWith_eq_maskedSum (w0 w1 w2 w3 : Word) (p : PrngState) :
    jumpWith [w0, w1, w2, w3] p = maskedSum (w3 ++ w2 ++ w1 ++ w0) p := by
  have hsum : maskedSum (w3 ++ w2 ++ w1 ++ w0) p =
      drawSum (w3 ++ w2 ++ w1 ++ w0).getLsbD (32 + 32 + 32 + 32) p := maskedSum_eq_drawSum _ p
  simp only [jumpWith, List.foldl_cons, List.foldl_nil, jumpWord_eq, hsum, drawSum_append,
    PrngState.zero_xor, PrngState.xor_assoc]

theorem jumpWith_jumpK (p : PrngState) :
    jumpWith jumpK p = maskedSum 0x77f2db5b6fa035c3f542d2d38764000b#128 p :=
  jumpWith_eq_maskedSum _ _ _ _ p

theorem jumpWith_ljumpK (p : PrngState) :
    jumpWith ljumpK p = maskedSum 0x1c580662ccf5a0ef0b6f099fb523952e#128 p :=
  jumpWith_eq_maskedSum _ _ _ _ p

/-- Settles O24: the loop over either table is the sum over its mask. -/
theorem jumpsSumTheMaskedDraws : Obligations.JumpsSumTheMaskedDraws := by
  intro s
  rw [exec_prngJump, jumpWith_jumpK, exec_prngLjump, jumpWith_ljumpK]
  exact ⟨congrArg _ (State.respondPlain_eq _), congrArg _ (State.respondPlain_eq _)⟩

end Sys2Proof.Machine
end

