-- ==== Sys2Proof/Proofs/JumpPower.lean ====
section
/-! SUPPORT. A jump as a power of the draw (40_prng.md R84, R85). A mask stands for a polynomial in the
draw over GF(2). 128 draws are such a sum themselves (`iterate_advance_128`), so masks multiply modulo
that relation, and 2^k draws are the sum over the mask of one draw squared k times: for k = 64 that is
the mask of R44, for k = 96 that of R45. O25 and O26 follow. -/

namespace Sys2Proof.Machine

/-! ### Sums over masks -/

theorem drawSum_bne (f g : Nat → Bool) (k : Nat) (p : PrngState) :
    drawSum (fun n => f n ^^ g n) k p = (drawSum f k p).xor (drawSum g k p) := by
  induction k with
  | zero => simp [drawSum]
  | succ k ih =>
    cases hf : f k <;> cases hg : g k <;>
      simp [drawSum, hf, hg, ih, PrngState.xor_left_comm, PrngState.xor_comm]

theorem maskedSum_xor_mask (a b : BitVec 128) (p : PrngState) :
    maskedSum (a ^^^ b) p = (maskedSum a p).xor (maskedSum b p) := by
  simp only [maskedSum_eq_drawSum, ← drawSum_bne]
  exact drawSum_congr (fun n _ => BitVec.getLsbD_xor) p

theorem maskedSum_xor (a : BitVec 128) (p q : PrngState) :
    maskedSum a (p.xor q) = (maskedSum a p).xor (maskedSum a q) := by
  simp only [maskedSum_eq_drawSum, drawSum_xor]

theorem maskedSum_advance (a : BitVec 128) (p : PrngState) :
    maskedSum a p.advance = (maskedSum a p).advance := by
  simp only [maskedSum_eq_drawSum, drawSum_advance]

theorem maskedSum_zero (p : PrngState) : maskedSum 0#128 p = .zero := by
  have hbits : (List.range 128).filter (fun n => (0#128).getLsbD n) = [] := by decide
  rw [maskedSum, hbits, List.foldl_nil]

theorem maskedSum_one (p : PrngState) : maskedSum 1#128 p = p := by
  have hbits : (List.range 128).filter (fun n => (1#128).getLsbD n) = [0] := by decide
  rw [maskedSum, hbits, List.foldl_cons, List.foldl_nil, PrngState.zero_xor, Function.iterate_zero_apply]

theorem maskedSum_two (p : PrngState) : maskedSum 2#128 p = p.advance := by
  have hbits : (List.range 128).filter (fun n => (2#128).getLsbD n) = [1] := by decide
  rw [maskedSum, hbits, List.foldl_cons, List.foldl_nil, PrngState.zero_xor, Function.iterate_one]

/-- Shifting a mask by one bit makes every summand one draw later; the top bit falls out of the mask
and stands for 128 draws. -/
theorem advance_maskedSum (a : BitVec 128) (p : PrngState) : (maskedSum a p).advance =
    (maskedSum (a <<< 1) p).xor (if a.getLsbD 127 then PrngState.advance^[128] p else .zero) := by
  have hshift : ∀ n < 127, (a <<< 1).getLsbD (1 + n) = a.getLsbD n := fun n hn => by
    rw [BitVec.getLsbD_shiftLeft, Nat.add_sub_cancel_left]
    simp [show 1 + n < 128 by omega]
  have hbottom : drawSum (a <<< 1).getLsbD 1 p = .zero := by simp [drawSum]
  have hlow : maskedSum (a <<< 1) p = (drawSum a.getLsbD 127 p).advance := by
    rw [maskedSum_eq_drawSum, drawSum_add _ 1 127, hbottom, PrngState.zero_xor, drawSum_congr hshift,
      Function.iterate_one, drawSum_advance]
  rw [maskedSum_eq_drawSum, drawSum, PrngState.advance_xor, ← hlow, apply_ite PrngState.advance,
    PrngState.advance_zero, ← Function.iterate_succ_apply' PrngState.advance]

/-! ### What suffices for a property of every state -/

/-- One low bit more of a word is one exclusive or more. -/
theorem setWidth_setWidth_succ_eq_xor (x : Word) (n : Nat) : (x.setWidth (n + 1)).setWidth 32 =
    (x.setWidth n).setWidth 32 ^^^ (if x.getLsbD n then BitVec.twoPow 32 n else 0#32) := by
  ext i hi
  cases hx : x.getLsbD n <;> grind

/-- A property that sums of words keep holds of every word when it holds of the single bits. -/
theorem word_induction {P : Word → Prop} (hxor : ∀ x y, P x → P y → P (x ^^^ y))
    (hbit : ∀ i < 32, P (BitVec.twoPow 32 i)) (x : Word) : P x := by
  have hzero : P 0#32 := by simpa using hxor _ _ (hbit 0 (by decide)) (hbit 0 (by decide))
  have hlow : ∀ n ≤ 32, P ((x.setWidth n).setWidth 32) := by
    intro n hn
    induction n with
    | zero => rw [BitVec.eq_nil (x.setWidth 0)]; exact hzero
    | succ n ih =>
      rw [setWidth_setWidth_succ_eq_xor]
      refine hxor _ _ (ih (by omega)) ?_
      split
      · exact hbit n (by omega)
      · exact hzero
  simpa using hlow 32 le_rfl

theorem rotateLeft_eleven_surjective (d : Word) : ∃ w : Word, w.rotateLeft 11 = d := by
  refine ⟨d.rotateLeft 21, ?_⟩
  ext i hi
  simp only [BitVec.getElem_rotateLeft]
  grind

/-- A property that sums and draws keep holds of every state when it holds of those in which only the
third word is set: draws carry that word to the second, then to the fourth and the first together,
and a further draw parts these two. -/
theorem holds_of_third_word {P : PrngState → Prop} (hxor : ∀ p q, P p → P q → P (p.xor q))
    (hdraw : ∀ p, P p → P p.advance) (hthird : ∀ w, P ⟨0#32, 0#32, w, 0#32⟩) (p : PrngState) : P p := by
  have hsecond (w : Word) : P ⟨0#32, w, 0#32, 0#32⟩ := by
    simpa [PrngState.advance_eq, PrngState.xor] using hxor _ _ (hdraw _ (hthird w)) (hthird w)
  have houter (w : Word) : P ⟨w, 0#32, 0#32, w.rotateLeft 11⟩ := by
    simpa [PrngState.advance_eq, PrngState.xor] using
      hxor _ _ (hxor _ _ (hdraw _ (hsecond w)) (hsecond w)) (hthird (w <<< 9))
  have hfirst (w : Word) : P ⟨w, 0#32, 0#32, 0#32⟩ := by
    simpa [PrngState.advance_eq, PrngState.xor] using
      hxor _ _ (hxor _ _ (hdraw _ (houter w)) (houter (w.rotateLeft 11)))
        (hxor _ _ (hsecond w) (hthird w))
  have hfourth (w : Word) : P ⟨0#32, 0#32, 0#32, w⟩ := by
    obtain ⟨v, rfl⟩ := rotateLeft_eleven_surjective w
    simpa [PrngState.xor] using hxor _ _ (houter v) (hfirst v)
  obtain ⟨a, b, c, d⟩ := p
  simpa [PrngState.xor] using
    hxor _ _ (hxor _ _ (hfirst a) (hsecond b)) (hxor _ _ (hthird c) (hfourth d))

/-! ### 128 draws as a sum of fewer -/

/-- The characteristic polynomial of a draw without its leading term, as a mask. -/
def drawRelation : BitVec 128 := 0x00fc65a2006254b11b489db6de18fc01#128

/-- The jump's loop over `drawRelation`. -/
def relationLoop (p : PrngState) : PrngState × PrngState :=
  (List.range 128).foldl (fun x n => jumpBit (drawRelation.getLsbD n) x) (.zero, p)

theorem relationLoop_eq (p : PrngState) :
    relationLoop p = (maskedSum drawRelation p, PrngState.advance^[128] p) := by
  rw [relationLoop, foldl_jumpBit, PrngState.zero_xor, maskedSum_eq_drawSum]

/-- On this state 128 draws are the sum over `drawRelation`. -/
def MeetsRelation (p : PrngState) : Prop :=
  PrngState.advance^[128] p = maskedSum drawRelation p

theorem MeetsRelation.xor {p q : PrngState} (hp : MeetsRelation p) (hq : MeetsRelation q) :
    MeetsRelation (p.xor q) := by
  rw [MeetsRelation, PrngState.iterate_advance_xor, hp, hq, maskedSum_xor]

theorem MeetsRelation.advance {p : PrngState} (hp : MeetsRelation p) : MeetsRelation p.advance := by
  rw [MeetsRelation, ← Function.iterate_succ_apply, Function.iterate_succ_apply', hp,
    maskedSum_advance]

theorem relationLoop_bit : ∀ i < 32,
    (relationLoop ⟨0#32, 0#32, BitVec.twoPow 32 i, 0#32⟩).2 =
      (relationLoop ⟨0#32, 0#32, BitVec.twoPow 32 i, 0#32⟩).1 := by decide +kernel

theorem meetsRelation_third_word (w : Word) : MeetsRelation ⟨0#32, 0#32, w, 0#32⟩ := by
  induction w using word_induction with
  | hxor x y hx hy => simpa [PrngState.xor] using hx.xor hy
  | hbit i hi =>
    have hloop := relationLoop_bit i hi
    rwa [relationLoop_eq] at hloop

/-- The draw meets its characteristic polynomial: the states that do are closed under sums and draws,
so the 32 states with one bit set, in the third word, decide it. -/
theorem iterate_advance_128 (p : PrngState) :
    PrngState.advance^[128] p = maskedSum drawRelation p :=
  holds_of_third_word (P := MeetsRelation) (fun _ _ => .xor) (fun _ => .advance)
    meetsRelation_third_word p

/-! ### Masks multiply -/

/-- The mask of one draw more. -/
def timesDraw (a : BitVec 128) : BitVec 128 :=
  if a.getLsbD 127 then a <<< 1 ^^^ drawRelation else a <<< 1

theorem maskedSum_timesDraw (a : BitVec 128) (p : PrngState) :
    maskedSum (timesDraw a) p = (maskedSum a p).advance := by
  rw [advance_maskedSum, timesDraw]
  split
  · rw [maskedSum_xor_mask, iterate_advance_128]
  · rw [PrngState.xor_zero]

/-- The mask of `2 * n` draws. -/
def evenDraws : Nat → BitVec 128
  | 0 => 1#128
  | n + 1 => timesDraw (timesDraw (evenDraws n))

theorem maskedSum_evenDraws (n : Nat) (p : PrngState) :
    maskedSum (evenDraws n) p = PrngState.advance^[2 * n] p := by
  induction n with
  | zero => exact maskedSum_one p
  | succ n ih =>
    rw [evenDraws, maskedSum_timesDraw, maskedSum_timesDraw, ih, Nat.mul_succ,
      Function.iterate_succ_apply', Function.iterate_succ_apply']

/-- The mask of a sum taken twice: over GF(2) the square of a sum is the sum of the squares. -/
def squareMask (a : BitVec 128) : BitVec 128 :=
  (List.range 128).foldl (fun x n => if a.getLsbD n then x ^^^ evenDraws n else x) 0#128

theorem maskedSum_foldl_evenDraws (f : Nat → Bool) (k : Nat) (p : PrngState) :
    maskedSum ((List.range k).foldl (fun x n => if f n then x ^^^ evenDraws n else x) 0#128) p =
      drawSum f k (drawSum f k p) := by
  induction k with
  | zero => exact maskedSum_zero p
  | succ k ih =>
    rw [List.range_succ, List.foldl_append, List.foldl_cons, List.foldl_nil]
    cases hf : f k
    · simp [drawSum, hf, ih]
    · simp [drawSum, hf, ih, maskedSum_xor_mask, maskedSum_evenDraws, drawSum_xor,
        drawSum_iterate_advance, PrngState.iterate_advance_xor, PrngState.xor_assoc,
        two_mul, Function.iterate_add_apply]

theorem maskedSum_squareMask (a : BitVec 128) (p : PrngState) :
    maskedSum (squareMask a) p = maskedSum a (maskedSum a p) := by
  rw [squareMask, maskedSum_foldl_evenDraws, maskedSum_eq_drawSum, maskedSum_eq_drawSum]

/-- The mask of one draw, squared `k` times, is that of 2^k draws. -/
theorem maskedSum_iterate_squareMask {k n : Nat} (hn : n = 2 ^ k) (p : PrngState) :
    maskedSum (squareMask^[k] 2#128) p = PrngState.advance^[n] p := by
  induction k generalizing n p with
  | zero => rw [hn]; exact maskedSum_two p
  | succ k ih =>
    rw [Function.iterate_succ_apply', maskedSum_squareMask, ih rfl, ih rfl,
      ← Function.iterate_add_apply, hn, Nat.pow_succ, Nat.mul_two]

/-! ### The masks of R44 and R45 -/

theorem iterate_squareMask_32 :
    squareMask^[32] 2#128 = 0x0f8aed94730b948df3be07b8f7afe108#128 := by decide +kernel

theorem iterate_squareMask_64 :
    squareMask^[64] 2#128 = 0x77f2db5b6fa035c3f542d2d38764000b#128 := by
  have hstep : squareMask^[32] 0x0f8aed94730b948df3be07b8f7afe108#128 =
      0x77f2db5b6fa035c3f542d2d38764000b#128 := by decide +kernel
  rw [Function.iterate_add_apply squareMask 32 32, iterate_squareMask_32, hstep]

theorem iterate_squareMask_96 :
    squareMask^[96] 2#128 = 0x1c580662ccf5a0ef0b6f099fb523952e#128 := by
  have hstep : squareMask^[32] 0x77f2db5b6fa035c3f542d2d38764000b#128 =
      0x1c580662ccf5a0ef0b6f099fb523952e#128 := by decide +kernel
  rw [Function.iterate_add_apply squareMask 32 64, iterate_squareMask_64, hstep]

theorem jumpWith_jumpK_eq_iterate_advance {n : Nat} (hn : n = 2 ^ 64) (p : PrngState) :
    jumpWith jumpK p = PrngState.advance^[n] p := by
  rw [jumpWith_jumpK, ← iterate_squareMask_64, maskedSum_iterate_squareMask hn]

theorem jumpWith_ljumpK_eq_iterate_advance {n : Nat} (hn : n = 2 ^ 96) (p : PrngState) :
    jumpWith ljumpK p = PrngState.advance^[n] p := by
  rw [jumpWith_ljumpK, ← iterate_squareMask_96, maskedSum_iterate_squareMask hn]

/-! ### The commands -/

theorem performAll_replicate_prngNext (n : Nat) (s : State) : ∃ t,
    performAll (List.replicate n .prngNext) s = .next t ∧ t.prng = PrngState.advance^[n] s.prng := by
  induction n generalizing s with
  | zero => exact ⟨s, rfl, rfl⟩
  | succ n ih =>
    obtain ⟨t, ht, hprng⟩ := ih (s.draw.respond false .noEvent (s.prng.output.setWidth 128))
    exact ⟨t, by rw [List.replicate_succ, performAll_cons (exec_prngNext s), ht], hprng⟩

/-- A command that jumps by the words `k` is `n` PRNG.NEXT, but for the response, when the sum over
`k` is `n` draws. -/
theorem jump_eq_performAll_prngNext {i : Instr} {k : List Word} {n : Nat}
    (hexec : ∀ s, exec i s = .next { s with prng := jumpWith k s.prng }.respondPlain)
    (hjump : ∀ p, jumpWith k p = PrngState.advance^[n] p) (s : State) : ∃ t,
    performAll (List.replicate n .prngNext) s = .next t ∧
      exec i s = .next { s with
        prng := t.prng, resp := some (quietResponse s.edge s.deb s.face) } := by
  obtain ⟨t, ht, hprng⟩ := performAll_replicate_prngNext n s
  exact ⟨t, ht, by rw [hexec, hjump, hprng, State.respondPlain_eq]⟩

/-- Settles O25: the sum over the mask of R44 is 2^64 draws. -/
theorem prngJumpIsTwoToTheSixtyFourDraws : Obligations.PrngJumpIsTwoToTheSixtyFourDraws :=
  fun s _ hlow hhigh => jump_eq_performAll_prngNext exec_prngJump
    (jumpWith_jumpK_eq_iterate_advance (le_antisymm hhigh hlow)) s

/-- Settles O26: the sum over the mask of R45 is 2^96 draws. -/
theorem prngLjumpIsTwoToTheNinetySixDraws : Obligations.PrngLjumpIsTwoToTheNinetySixDraws :=
  fun s _ hlow hhigh => jump_eq_performAll_prngNext exec_prngLjump
    (jumpWith_ljumpK_eq_iterate_advance (le_antisymm hhigh hlow)) s

end Sys2Proof.Machine
end

