-- ==== Sys2Proof/Proofs/DebouncerRead.lean ====
section
/-! SUPPORT. What one read of the debouncer computes (41_debouncer.md R101): each of its three bit
functions in the statements' terms, the rule of DEB.READ, and O35 assembled from them. -/

namespace Sys2Proof.Machine

/-! ### The three bit functions -/

/-- What the history and the edge register have in common: `((v << 1) | b) mod 2^n` drops the top bit
of `v` and takes `b` in at bit 0. -/
theorem shiftLeft_one_or_ofBool {w : Nat} (v : BitVec (w + 1)) (b : Bool) :
    v <<< 1 ||| (BitVec.ofBool b).setWidth (w + 1) = v.extractLsb' 0 w ++ BitVec.ofBool b := by
  rw [BitVec.append_ofBool]
  ext i hi
  cases i with
  | zero => simp
  | succ i => simp [BitVec.getLsbD_eq_getElem (Nat.lt_of_succ_lt hi)]

theorem shiftIn_eq_append (h : BitVec 8) (x : Bool) :
    shiftIn h x = h.extractLsb' 0 7 ++ BitVec.ofBool x :=
  shiftLeft_one_or_ofBool h x

theorem hysteresis_eq_ite (h : BitVec 8) (d : Bool) :
    hysteresis h d = if h = BitVec.allOnes 8 then true else if h = 0#8 then false else d := rfl

theorem edgeStep_eq_append (e : BitVec 2) (d : Bool) :
    edgeStep e d = e.extractLsb' 0 1 ++ BitVec.ofBool d :=
  shiftLeft_one_or_ofBool e d

/-! ### The command -/

theorem exec_debRead (x : Bool) (s : State) :
    exec (.debRead x) s = .next (s.debRead x).respondPlain := rfl

/-- Settles O35: the three steps of R101 in order, each on the result of the one before. -/
theorem debReadShiftsFiltersAndTags : Obligations.DebReadShiftsFiltersAndTags := by
  intro x s h d e hh hd he
  have hhist : h = shiftIn s.hist x := by rw [shiftIn_eq_append, hh]
  have hdeb : d = hysteresis h s.deb := by rw [hysteresis_eq_ite, hd]
  have hedge : e = edgeStep s.edge d := by rw [edgeStep_eq_append, he]
  rw [exec_debRead, State.respondPlain_eq, hedge, hdeb, hhist]
  rfl

end Sys2Proof.Machine
end

