-- ==== Sys2Proof/Proofs/RollCommands.lean ====
section
/-! SUPPORT. The commands of roll_state_accumulator (42_roll.md): one rule per command, with ROLL.UPDATE
in a rule per branch of R123, the widths of R5 making every write exact; and O40, O41 and O42 assembled
from them. -/

namespace Sys2Proof.Machine

/-! ### Values that their registers hold exactly -/

/-- A face computed modulo 6 is the three bits of that number. -/
theorem ofNat_mod_numFaces {n : Nat} {f : BitVec 3} (h : f.toNat = n % 6) :
    BitVec.ofNat 3 (n % numFaces) = f := by
  rw [numFaces, ← h, BitVec.ofNat_toNat, BitVec.setWidth_eq]

/-- Every speed up to the rolling speed fits the width of `speed`. -/
theorem Config.speed_lt {c : Config} (h : c.wellFormed = true) {v : Nat} (hv : v ≤ c.rollSpeed) :
    v < 2 ^ c.speedW := by
  obtain ⟨-, -, -, hspeed, -⟩ := Config.bounds h
  exact hv.trans_lt hspeed

theorem Config.rollSpeed_half_lt {c : Config} (h : c.wellFormed = true) :
    c.rollSpeed >>> 1 < 2 ^ c.speedW :=
  Config.speed_lt h (Nat.shiftRight_le _ 1)

/-- No accumulation at a speed up to the rolling speed leaves the width of `timer` (R5's third
constraint on `ROLL_PERIOD`). -/
theorem Config.accumulation_lt {c : Config} (h : c.wellFormed = true) {m v : Nat}
    (hm : m < c.rollPeriod) (hv : v ≤ c.rollSpeed) : m + v / 2 ^ c.speedPrec < 2 ^ c.timerW := by
  obtain ⟨-, -, -, -, -, -, hsum, -⟩ := Config.bounds h
  have hdiv : v / 2 ^ c.speedPrec ≤ c.rollSpeed >>> c.speedPrec := by
    rw [Nat.shiftRight_eq_div_pow]
    exact Nat.div_le_div_right hv
  omega

/-! ### ROLL.START and ROLL.SLOW -/

theorem exec_rollStart (s : State) : exec .rollStart s = .next s.rollStart.respondPlain := rfl

theorem exec_rollSlow (s : State) : exec .rollSlow s = .next s.rollSlow.respondPlain := rfl

/-- ROLL.START's writes, the rolling speed unreduced. -/
theorem State.rollStart_eq {s : State} (h : s.cfg.wellFormed = true) :
    s.rollStart = { s with pressed := true, speed := s.cfg.rollSpeed } := by
  rw [State.rollStart, keep_of_lt (Config.speed_lt h le_rfl)]

/-- ROLL.SLOW's writes, half the rolling speed unreduced. -/
theorem State.rollSlow_eq {s : State} (h : s.cfg.wellFormed = true) :
    s.rollSlow = { s with
      pressed := false, prng := s.prng.advance, speed := s.cfg.rollSpeed >>> 1
      face := BitVec.ofNat 3 (s.prng.output.toNat % numFaces) } := by
  simp only [State.rollSlow, State.draw, keep_of_lt (Config.rollSpeed_half_lt h)]

/-- Settles O40: the two writes of ROLL.START and the response. -/
theorem rollStartSetsPressedAndSpeed : Obligations.RollStartSetsPressedAndSpeed := by
  intro s hcfg
  rw [exec_rollStart, State.rollStart_eq hcfg, State.respondPlain_eq]

/-- Settles O41: the four writes of ROLL.SLOW and the response. -/
theorem rollSlowDrawsTheFace : Obligations.RollSlowDrawsTheFace := by
  intro s f hcfg hf
  rw [exec_rollSlow, State.rollSlow_eq hcfg, ofNat_mod_numFaces hf, State.respondPlain_eq]
  rfl

/-! ### The background draw leaves the roll registers (R123 (a)) -/

@[simp] theorem State.backgroundDraw_cfg (s : State) : s.backgroundDraw.cfg = s.cfg := by
  rw [State.backgroundDraw_eq]
@[simp] theorem State.backgroundDraw_pressed (s : State) : s.backgroundDraw.pressed = s.pressed := by
  rw [State.backgroundDraw_eq]
@[simp] theorem State.backgroundDraw_speed (s : State) : s.backgroundDraw.speed = s.speed := by
  rw [State.backgroundDraw_eq]

/-! ### ROLL.UPDATE branch by branch (R123) -/

/-- An accumulation that stays below the period. -/
theorem State.accumulate_of_lt {s : State} {m : Nat} (hm : s.timer + s.speed / 2 ^ s.cfg.speedPrec = m)
    (hkeep : m < 2 ^ s.cfg.timerW) (hlt : m < s.cfg.rollPeriod) :
    s.accumulate = (.noEvent, { s with timer := m }) := by
  simp [State.accumulate, Nat.shiftRight_eq_div_pow, hm, keep_of_lt hkeep, hlt]

/-- An accumulation that reaches the period wraps the timer and advances the face. -/
theorem State.accumulate_of_ge {s : State} {m : Nat} (hm : s.timer + s.speed / 2 ^ s.cfg.speedPrec = m)
    (hkeep : m < 2 ^ s.cfg.timerW) (hge : s.cfg.rollPeriod ≤ m) :
    s.accumulate = (.roll, { s with
      timer := m - s.cfg.rollPeriod, face := BitVec.ofNat 3 ((s.face.toNat + 1) % numFaces) }) := by
  have hwrap : m - s.cfg.rollPeriod < 2 ^ s.cfg.timerW := (Nat.sub_le _ _).trans_lt hkeep
  simp [State.accumulate, Nat.shiftRight_eq_div_pow, hm, keep_of_lt hkeep, keep_of_lt hwrap, hge]

theorem State.rollUpdate_of_idle {s : State} (hspeed : s.speed = 0) :
    s.rollUpdate = (.noEvent, { s.backgroundDraw with timer := 0 }) := by
  simp [State.rollUpdate, hspeed]

/-- While pressed the speed stays and accumulates. -/
theorem State.rollUpdate_of_pressed {s : State} (hp : s.pressed = true) (hspeed : s.speed ≠ 0) :
    s.rollUpdate = s.backgroundDraw.accumulate := by
  simp [State.rollUpdate, hp, hspeed]

/-- The tick that takes the speed to 0 stops, before anything accumulates. -/
theorem State.rollUpdate_of_last {s : State} (hp : s.pressed = false) (hspeed : s.speed = 1) :
    s.rollUpdate = (.stop, { s.backgroundDraw with speed := 0 }) := by
  simp [State.rollUpdate, State.slowDown, hp, hspeed]

/-- A slowing tick before the last one takes 1 off the speed and accumulates what is left, if the
configuration accumulates while slowing. -/
theorem State.rollUpdate_of_slowing {s : State} (hp : s.pressed = false) (hspeed : 2 ≤ s.speed)
    (hkeep : s.speed < 2 ^ s.cfg.speedW) :
    s.rollUpdate = if s.cfg.slowAccumulates = true
      then ({ s.backgroundDraw with speed := s.speed - 1 } : State).accumulate
      else (.noEvent, { s.backgroundDraw with speed := s.speed - 1 }) := by
  have hrest : keep s.cfg.speedW (s.speed - 1) = s.speed - 1 :=
    keep_of_lt ((Nat.sub_le _ _).trans_lt hkeep)
  have hmore : s.speed - 1 ≠ 0 := by omega
  have hmoving : s.speed ≠ 0 := by omega
  cases ha : s.cfg.slowAccumulates <;>
    simp [State.rollUpdate, State.slowDown, hp, hmoving, hrest, hmore, ha]

/-- ROLL.UPDATE answers the event and the registers of its procedure. -/
theorem exec_rollUpdate {s t : State} {e : RollEvent} (h : s.rollUpdate = (e, t)) :
    exec .rollUpdate s = .next (t.respond false e 0#128) := by
  rw [exec, execRollUpdate, h]

/-- Settles O42: each branch of ROLL.UPDATE by its rule; both kinds of accumulating tick are one
accumulation at the speed `v`. -/
theorem rollUpdateCaseByCase : Obligations.RollUpdateCaseByCase := by
  intro s p hcfg htimer hspeed hp
  have hdraw : s.backgroundDraw = { s with prng := p } := by rw [State.backgroundDraw_eq, hp]
  have hkeep : s.speed < 2 ^ s.cfg.speedW := Config.speed_lt hcfg hspeed
  refine ⟨fun hidle => ?_, fun hup hlast => ?_, fun hup htwo hliteral => ?_, fun v hv => ?_⟩
  · rw [exec_rollUpdate (State.rollUpdate_of_idle hidle), hdraw]
    rfl
  · rw [exec_rollUpdate (State.rollUpdate_of_last hup hlast), hdraw]
    rfl
  · have hslow := State.rollUpdate_of_slowing hup htwo hkeep
    rw [if_neg (by simp [hliteral]), hdraw] at hslow
    exact exec_rollUpdate hslow
  · have haccumulates : s.rollUpdate = ({ s with prng := p, speed := v } : State).accumulate := by
      rcases hv with ⟨hdown, hone, rfl⟩ | ⟨hup, htwo, ha, rfl⟩
      · rw [State.rollUpdate_of_pressed hdown (by omega), hdraw]
      · rw [State.rollUpdate_of_slowing hup htwo hkeep, if_pos ha, hdraw]
    have hfits : s.timer + v / 2 ^ s.cfg.speedPrec < 2 ^ s.cfg.timerW :=
      Config.accumulation_lt hcfg htimer (by omega)
    refine ⟨fun hlt => ?_, fun hge f hf => ?_⟩
    · exact exec_rollUpdate (haccumulates.trans (State.accumulate_of_lt rfl hfits hlt))
    · rw [exec_rollUpdate (haccumulates.trans (State.accumulate_of_ge rfl hfits hge))]
      dsimp only
      rw [ofNat_mod_numFaces hf]
      rfl

end Sys2Proof.Machine
end

