-- ==== Sys2Proof/Proofs/RollModes.lean ====
section
/-! SUPPORT. The three states of the roll engine (10_state.md R22; 42_roll.md R120): what each says of
`pressed` and `speed`, what leaves the state as it is, the transitions of ROLL.UPDATE; and O43 assembled
from them. -/

namespace Sys2Proof.Machine

/-! ### The states read off the registers (R22) -/

theorem State.rollMode_eq_idle_iff {s : State} :
    s.rollMode = some .idle ↔ s.pressed = false ∧ s.speed = 0 := by
  unfold State.rollMode
  split_ifs <;> simp_all

theorem State.rollMode_eq_rolling_iff {s : State} :
    s.rollMode = some .rolling ↔ s.pressed = true ∧ s.speed = s.cfg.rollSpeed := by
  unfold State.rollMode
  split_ifs <;> simp_all

theorem State.rollMode_eq_slowing_iff {s : State} : s.rollMode = some .slowing ↔
    s.pressed = false ∧ s.speed ≠ 0 ∧ s.speed ≤ s.cfg.rollSpeed >>> 1 := by
  unfold State.rollMode
  split_ifs <;> simp_all

/-- R21 leaves no state outside the table. -/
theorem RollInvariant.exists_rollMode {s : State} (h : RollInvariant s) : ∃ m, s.rollMode = some m := by
  cases hp : s.pressed with
  | true => exact ⟨.rolling, State.rollMode_eq_rolling_iff.mpr ⟨hp, h.pressedOk hp⟩⟩
  | false =>
    by_cases hspeed : s.speed = 0
    · exact ⟨.idle, State.rollMode_eq_idle_iff.mpr ⟨hp, hspeed⟩⟩
    · exact ⟨.slowing, State.rollMode_eq_slowing_iff.mpr ⟨hp, hspeed, h.releasedOk hp⟩⟩

/-! ### What does not change the state, and the event of a response -/

@[simp] theorem State.rollMode_respond (s : State) (ill : Bool) (e : RollEvent) (w : Block) :
    (s.respond ill e w).rollMode = s.rollMode := rfl

@[simp] theorem State.rollMode_backgroundDraw (s : State) : s.backgroundDraw.rollMode = s.rollMode := by
  rw [State.backgroundDraw_eq]
  rfl

@[simp] theorem State.rollMode_accumulate (s : State) : s.accumulate.2.rollMode = s.rollMode := by
  obtain ⟨m, f, h, -⟩ := s.accumulate_frame
  rw [h]
  rfl

theorem State.lastEvent_respond {s : State} {ill : Bool} {e f : RollEvent} {w : Block} (h : e = f) :
    (s.respond ill e w).lastEvent = some f.code := by
  rw [← h]
  rfl

/-- Accumulating reports ROLL or NONE. -/
theorem State.accumulate_event (s : State) : s.accumulate.1 = .roll ∨ s.accumulate.1 = .noEvent := by
  obtain ⟨-, -, -, h⟩ := s.accumulate_frame
  cases he : s.accumulate.1 <;> simp_all

/-! ### The transitions (R120) -/

theorem State.rollMode_rollStart {s : State} (h : s.cfg.wellFormed = true) :
    s.rollStart.rollMode = some .rolling := by
  rw [State.rollStart_eq h]
  exact State.rollMode_eq_rolling_iff.mpr ⟨rfl, rfl⟩

/-- Half the rolling speed is not 0, so ROLL.SLOW always reaches SLOWING. -/
theorem State.rollMode_rollSlow {s : State} (h : s.cfg.wellFormed = true) :
    s.rollSlow.rollMode = some .slowing := by
  obtain ⟨-, -, htwo, -⟩ := Config.bounds h
  have hhalf : s.cfg.rollSpeed >>> 1 ≠ 0 := by omega
  rw [State.rollSlow_eq h]
  exact State.rollMode_eq_slowing_iff.mpr ⟨rfl, hhalf, le_rfl⟩

theorem State.rollUpdate_idle {s : State} (h : s.rollMode = some .idle) :
    s.rollUpdate.2.rollMode = some .idle ∧ s.rollUpdate.1 = .noEvent := by
  obtain ⟨hp, hspeed⟩ := State.rollMode_eq_idle_iff.mp h
  rw [State.rollUpdate_of_idle hspeed]
  exact ⟨(State.rollMode_backgroundDraw s).trans h, rfl⟩

theorem State.rollUpdate_rolling {s : State} (hcfg : s.cfg.wellFormed = true)
    (h : s.rollMode = some .rolling) : s.rollUpdate.2.rollMode = some .rolling ∧
      (s.rollUpdate.1 = .roll ∨ s.rollUpdate.1 = .noEvent) := by
  obtain ⟨-, -, htwo, -⟩ := Config.bounds hcfg
  obtain ⟨hp, hspeed⟩ := State.rollMode_eq_rolling_iff.mp h
  rw [State.rollUpdate_of_pressed hp (by omega)]
  exact ⟨by simp [h], State.accumulate_event _⟩

theorem State.rollUpdate_slowing {s : State} (hcfg : s.cfg.wellFormed = true)
    (h : s.rollMode = some .slowing) (htwo : 1 < s.speed) :
    s.rollUpdate.2.rollMode = some .slowing ∧
      (s.rollUpdate.1 = .roll ∨ s.rollUpdate.1 = .noEvent) := by
  obtain ⟨hp, -, hhalf⟩ := State.rollMode_eq_slowing_iff.mp h
  have hslowing : ({ s.backgroundDraw with speed := s.speed - 1 } : State).rollMode = some .slowing :=
    State.rollMode_eq_slowing_iff.mpr
      ⟨by simpa using hp, Nat.sub_ne_zero_of_lt htwo, by simpa using (Nat.sub_le _ 1).trans hhalf⟩
  rw [State.rollUpdate_of_slowing hp htwo (hhalf.trans_lt (Config.rollSpeed_half_lt hcfg))]
  split
  · exact ⟨by rw [State.rollMode_accumulate, hslowing], State.accumulate_event _⟩
  · exact ⟨hslowing, .inr rfl⟩

theorem State.rollUpdate_last {s : State} (h : s.rollMode = some .slowing) (hone : s.speed = 1) :
    s.rollUpdate.2.rollMode = some .idle ∧ s.rollUpdate.1 = .stop := by
  obtain ⟨hp, -⟩ := State.rollMode_eq_slowing_iff.mp h
  rw [State.rollUpdate_of_last hp hone]
  exact ⟨State.rollMode_eq_idle_iff.mpr ⟨by simpa using hp, rfl⟩, rfl⟩

/-- Settles O43, row by row of R120's table. -/
theorem rollStatesFollowTheTransitionTable : Obligations.RollStatesFollowTheTransitionTable := by
  intro s hcfg hinv
  refine ⟨hinv.exists_rollMode, ⟨_, exec_rollStart s, State.rollMode_rollStart hcfg, rfl⟩,
    ⟨_, exec_rollSlow s, State.rollMode_rollSlow hcfg, ?_, rfl⟩,
    ⟨_, exec_rollUpdate rfl, fun h => ?_, fun h => ?_, fun h htwo => ?_, fun h hone => ?_⟩⟩
  · rw [State.rollSlow_eq hcfg]
    rfl
  · exact (State.rollUpdate_idle h).imp (State.rollMode_respond ..).trans State.lastEvent_respond
  · exact (State.rollUpdate_rolling hcfg h).imp (State.rollMode_respond ..).trans
      (Or.imp State.lastEvent_respond State.lastEvent_respond)
  · exact (State.rollUpdate_slowing hcfg h htwo).imp (State.rollMode_respond ..).trans
      (Or.imp State.lastEvent_respond State.lastEvent_respond)
  · exact (State.rollUpdate_last h hone).imp (State.rollMode_respond ..).trans State.lastEvent_respond

end Sys2Proof.Machine
end

