-- ==== Sys2Proof/Proofs/LedCommands.lean ====
section
/-! SUPPORT. The commands of led_multiplex_driver but LED.UPDATE (43_led.md R146 to R148), one rule per
command with LED.PUT in a rule per kind of face; and O46, O47 and O48 assembled from them. -/

namespace Sys2Proof.Machine

/-! ### LED.PUT (R146) -/

/-- `FACE_LUT` as the list of its rows (20_memory.md R42). -/
theorem faceLut_eq_getElem? (f : BitVec 3) : faceLut f =
    [0b010000#6, 0b000001#6, 0b001001#6, 0b000011#6, 0b001011#6, 0b000111#6][f.toNat]? := by
  revert f
  decide

theorem faceLut_eq_none {f : BitVec 3} (h : 6 ≤ f.toNat) : faceLut f = none := by
  rw [← Option.not_isSome_iff_eq_none, faceLut_isSome, decide_eq_true_iff]
  omega

theorem exec_ledPut_of_some {f : BitVec 3} {p : BitVec 6} (h : faceLut f = some p) (s : State) :
    exec (.ledPut f) s = .next { s with pattern := p }.respondPlain := by
  simp [exec, execLedPut, State.ledPut_eq, h, State.respondPlain]

theorem exec_ledPut_of_none {f : BitVec 3} (h : faceLut f = none) (s : State) :
    exec (.ledPut f) s = .next (s.respond true .noEvent 0#128) := by
  simp [exec, execLedPut, State.ledPut_eq, h]

/-- Settles O46: a face of the table is loaded, a face outside it is rejected. -/
theorem ledPutLoadsOrRejects : Obligations.LedPutLoadsOrRejects := by
  refine fun f s => ⟨fun p hp => ?_, fun hf => ?_⟩
  · rw [exec_ledPut_of_some ((faceLut_eq_getElem? f).trans hp), State.respondPlain_eq]
  · rw [exec_ledPut_of_none (faceLut_eq_none hf)]
    rfl

/-! ### LED.BLINK and LED.UNBLINK (R147, R148) -/

theorem exec_ledBlink (s : State) : exec .ledBlink s = .next s.ledBlink.respondPlain := rfl

theorem exec_ledUnblink (s : State) : exec .ledUnblink s = .next s.ledUnblink.respondPlain := rfl

/-- The reload value of the blink timer fits its register. -/
theorem Config.keep_blinkMax {c : Config} (h : c.wellFormed = true) :
    keep c.blinkTimerW c.blinkMax = c.blinkMax := by
  obtain ⟨-, -, -, -, -, -, -, hblink⟩ := Config.bounds h
  exact keep_of_lt hblink

/-- LED.BLINK's writes, the reload value unreduced. -/
theorem State.ledBlink_eq {s : State} (h : s.cfg.wellFormed = true) :
    s.ledBlink = { s with blinkCount := 5#3, blinkTimer := s.cfg.blinkMax } := by
  rw [State.ledBlink, Config.keep_blinkMax h, blinkCountInit]

/-- Settles O47: the two writes of LED.BLINK and the response. -/
theorem ledBlinkStartsFivePhases : Obligations.LedBlinkStartsFivePhases := by
  intro s hcfg
  rw [exec_ledBlink, State.ledBlink_eq hcfg, State.respondPlain_eq]

/-- Settles O48: the two writes of LED.UNBLINK and the response. -/
theorem ledUnblinkClearsTheBlink : Obligations.LedUnblinkClearsTheBlink := by
  intro s
  rw [exec_ledUnblink, State.ledUnblink, State.respondPlain_eq]

end Sys2Proof.Machine
end

