-- ==== Sys2Proof/Proofs/LedUpdate.lean ====
section
/-! SUPPORT. LED.UPDATE (43_led.md R149) part by part: what a signature does to each line (R153), the
advance of the scan, the bits of the effective pattern (R152), the one segment it tests and the blink
step (R151); and O50 and O49 assembled from them. -/

namespace Sys2Proof.Machine

/-! ### Signatures (R153) -/

/-- `1 << A` drives or raises line `A` alone. -/
theorem one_shiftLeft_getLsbD (a l : Fin 3) : (1#3 <<< a.val).getLsbD l.val = decide (l = a) := by
  revert a l
  decide

/-- A signature line by line, the anode side first. -/
theorem signatureDrive_line (p : SegmentSig) (l : Fin 3) : (signatureDrive p).line l =
    if l = p.anode then .high else if l = p.cathode then .low else .floating := by
  simp only [Drive.line, signatureDrive, BitVec.getLsbD_or, one_shiftLeft_getLsbD]
  by_cases hanode : l = p.anode
  · simp [hanode]
  · by_cases hcathode : l = p.cathode <;> simp [hanode, hcathode]

/-- Settles O50: the anode line, the cathode line, which is another, and the line that is neither. -/
theorem signatureDrivesTwoLines : Obligations.SignatureDrivesTwoLines := by
  refine fun p l hne => ⟨?_, ?_, fun hanode hcathode => ?_⟩ <;> rw [signatureDrive_line]
  · exact if_pos rfl
  · rw [if_neg hne.symm, if_pos rfl]
  · rw [if_neg hanode, if_neg hcathode]

/-- The signature of an index that `SIG` holds. -/
theorem signature_of_sig {c : Config} {k : BitVec 3} {p : SegmentSig}
    (h : c.sig.toList[k.toNat]? = some p) : signature c k = some (signatureDrive p) := by
  rw [signature, ← Vector.getElem?_toList, h, Option.map_some]

/-! ### The scan and the effective pattern (R149, R152) -/

/-- Below `NUM_ELEMENTS` the scan advances cyclically. -/
theorem nextScan_toNat {c : Config} (hcfg : c.wellFormed = true) {k : BitVec 3}
    (hk : k.toNat < c.numElements) : (nextScan c k).toNat = (k.toNat + 1) % c.numElements := by
  obtain ⟨helements, -⟩ := Config.bounds hcfg
  unfold nextScan
  split
  · next hwrap => simp [hwrap]
  · next hmore =>
    rw [BitVec.toNat_add_of_lt (by simp; omega), Nat.mod_eq_of_lt (by omega)]
    rfl

/-- The lowest bit of the count is its parity. -/
theorem blinkCount_getLsbD_zero (c : BitVec 3) : c.getLsbD 0 = !(c.toNat % 2 == 0) := by
  revert c
  decide

/-- A bit of the effective pattern: the pattern's on an even count, or the indicator's. -/
theorem effectivePattern_getLsbD (cfg : Config) (p : BitVec 6) (c : BitVec 3) (k : Nat) :
    (effectivePattern cfg p c).getLsbD k =
      ((c.toNat % 2 == 0 && p.getLsbD k) || cfg.indicatorMask.getLsbD k) := by
  rw [effectivePattern, BitVec.getLsbD_or, blinkCount_getLsbD_zero]
  cases c.toNat % 2 == 0 <;> simp

/-! ### The tested segment (R149) -/

/-- The segment of an index that has a signature is driven exactly when its bit is set. -/
theorem State.driveSegment_of_signature {s : State} {d : Drive} (h : signature s.cfg s.scan = some d)
    (eff : BitVec 6) : s.driveSegment eff = if eff.getLsbD s.scan.toNat then s.emit d else s := by
  simp only [State.driveSegment, h]

/-! ### The blink step (R151) -/

/-- Once the count is 0 the blink is over. -/
theorem State.blinkStep_of_over {s : State} (h : s.blinkCount = 0#3) : s.blinkStep = s := by
  simp [State.blinkStep, h]

/-- At the end of a phase the timer is reloaded and the count goes down by one. -/
theorem State.blinkStep_of_phase_end {s : State} (hcfg : s.cfg.wellFormed = true)
    (hcount : s.blinkCount ≠ 0#3) (htimer : s.blinkTimer = 0) : s.blinkStep =
      { s with blinkTimer := s.cfg.blinkMax, blinkCount := s.blinkCount - 1#3 } := by
  simp [State.blinkStep, hcount, htimer, Config.keep_blinkMax hcfg]

/-- Within a phase the timer counts down. -/
theorem State.blinkStep_of_phase {s : State} (hcount : s.blinkCount ≠ 0#3) (htimer : s.blinkTimer ≠ 0) :
    s.blinkStep = { s with blinkTimer := s.blinkTimer - 1 } := by
  simp [State.blinkStep, hcount, htimer]

theorem blinkCount_sub_one_toNat {c : BitVec 3} (h : c ≠ 0#3) : (c - 1#3).toNat = c.toNat - 1 := by
  revert c
  decide

/-- The blink step with the new count and the new timer given as numbers. -/
theorem State.blinkStep_eq {s : State} (hcfg : s.cfg.wellFormed = true) {count : BitVec 3} {timer : Nat}
    (hcount : count.toNat = if s.blinkTimer = 0 then s.blinkCount.toNat - 1 else s.blinkCount.toNat)
    (htimer : timer = if s.blinkCount = 0#3 then s.blinkTimer
      else if s.blinkTimer = 0 then s.cfg.blinkMax else s.blinkTimer - 1) :
    s.blinkStep = { s with blinkCount := count, blinkTimer := timer } := by
  by_cases hover : s.blinkCount = 0#3
  · have hc : count = s.blinkCount := BitVec.eq_of_toNat_eq (by simpa [hover] using hcount)
    rw [State.blinkStep_of_over hover, htimer, if_pos hover, hc]
  · rw [if_neg hover] at htimer
    by_cases hend : s.blinkTimer = 0
    · have hc : count = s.blinkCount - 1#3 :=
        BitVec.eq_of_toNat_eq (by rw [hcount, if_pos hend, blinkCount_sub_one_toNat hover])
      rw [State.blinkStep_of_phase_end hcfg hover hend, htimer, if_pos hend, hc]
    · have hc : count = s.blinkCount := BitVec.eq_of_toNat_eq (by rw [hcount, if_neg hend])
      rw [State.blinkStep_of_phase hover hend, htimer, if_neg hend, hc]

/-! ### The command -/

theorem exec_ledUpdate (s : State) : exec .ledUpdate s = .next s.ledUpdate.respondPlain := rfl

/-- The registers when all three lines have been floated and the scan stands at the segment to test. -/
def State.floatedAt (s : State) (k : BitVec 3) : State := ({ s with scan := k } : State).emit .floating

/-- LED.UPDATE for a new scan position that has a signature. -/
theorem State.ledUpdate_of_signature {s : State} {k : BitVec 3} {d : Drive}
    (hk : nextScan s.cfg s.scan = k) (hd : signature s.cfg k = some d) :
    s.ledUpdate =
      (if (effectivePattern s.cfg s.pattern s.blinkCount).getLsbD k.toNat
        then (s.floatedAt k).emit d else s.floatedAt k).blinkStep := by
  subst hk
  exact congrArg State.blinkStep
    (State.driveSegment_of_signature (s := s.floatedAt (nextScan s.cfg s.scan)) hd _)

/-- Settles O49: the scan, the tested segment and the blink step of LED.UPDATE; a lit segment adds its
drive to the log, a dark one leaves the lines floating. -/
theorem ledUpdateScansOneSegment : Obligations.LedUpdateScansOneSegment := by
  intro s k anode cathode lit count timer hcfg hscan hk hsig hlit hcount htimer
  have hadvance := nextScan_toNat hcfg hscan
  generalize hnext : nextScan s.cfg s.scan = scan at hadvance
  obtain rfl : scan.toNat = k := hadvance.trans hk.symm
  rw [exec_ledUpdate, State.ledUpdate_of_signature hnext (signature_of_sig hsig),
    effectivePattern_getLsbD, ← hlit, BitVec.ofNat_toNat, BitVec.setWidth_eq]
  cases lit with
  | true =>
    rw [if_pos rfl, State.blinkStep_eq (s := (s.floatedAt scan).emit _) hcfg hcount htimer,
      State.respondPlain_eq]
    simp [State.floatedAt, State.emit, signatureDrive, Drive.floating]
  | false =>
    rw [if_neg Bool.false_ne_true, State.blinkStep_eq (s := s.floatedAt scan) hcfg hcount htimer,
      State.respondPlain_eq]
    rfl

end Sys2Proof.Machine
end

