-- ==== Sys2Proof/Proofs/LastResponse.lean ====
section
/-! SUPPORT. No command reads the last response (log entry 10): ROLL.UPDATE, LED.PUT and LED.UPDATE leave
the same registers whatever response stands in the state. -/

namespace Sys2Proof.Machine

/-- The state with another last response. -/
def State.withResp (s : State) (r : Option Response) : State := { s with resp := r }

theorem State.withResp_edge (s : State) (r : Option Response) : (s.withResp r).edge = s.edge := rfl

theorem State.withResp_face (s : State) (r : Option Response) : (s.withResp r).face = s.face := rfl

/-! ### ROLL.UPDATE (42_roll.md R123) -/

theorem State.backgroundDraw_withResp (s : State) (r : Option Response) :
    (s.withResp r).backgroundDraw = s.backgroundDraw.withResp r := by
  rw [State.backgroundDraw_eq, State.backgroundDraw_eq]
  rfl

theorem State.accumulate_withResp (s : State) (r : Option Response) :
    (s.withResp r).accumulate = s.accumulate.map id (·.withResp r) := by
  unfold State.accumulate
  dsimp only
  rw [apply_ite (Prod.map id _)]
  rfl

theorem State.slowDown_withResp (s : State) (r : Option Response) :
    (s.withResp r).slowDown = s.slowDown.map id (·.withResp r) := by
  unfold State.slowDown
  dsimp only
  rw [apply_ite (Prod.map id _), apply_ite (Prod.map id _), ← State.accumulate_withResp]
  rfl

theorem State.rollUpdate_withResp (s : State) (r : Option Response) :
    (s.withResp r).rollUpdate = s.rollUpdate.map id (·.withResp r) := by
  unfold State.rollUpdate
  dsimp only
  rw [apply_ite (Prod.map id _), apply_ite (Prod.map id _), ← State.accumulate_withResp,
    ← State.slowDown_withResp, State.backgroundDraw_withResp]
  rfl

/-! ### LED.PUT and LED.UPDATE (43_led.md R146, R149) -/

theorem State.ledPut_withResp (s : State) (f : BitVec 3) (r : Option Response) :
    (s.withResp r).ledPut f = (s.ledPut f).map id (·.withResp r) := by
  rw [State.ledPut_eq, State.ledPut_eq]
  rfl

theorem State.driveSegment_withResp (s : State) (eff : BitVec 6) (r : Option Response) :
    (s.withResp r).driveSegment eff = (s.driveSegment eff).withResp r := by
  unfold State.driveSegment State.withResp
  dsimp only
  cases signature s.cfg s.scan with
  | none => rfl
  | some d =>
    dsimp only
    split <;> rfl

theorem State.blinkStep_withResp (s : State) (r : Option Response) :
    (s.withResp r).blinkStep = s.blinkStep.withResp r := by
  unfold State.blinkStep
  rw [apply_ite (State.withResp · r), apply_ite (State.withResp · r)]
  rfl

theorem State.ledUpdate_withResp (s : State) (r : Option Response) :
    (s.withResp r).ledUpdate = s.ledUpdate.withResp r := by
  unfold State.ledUpdate
  dsimp only
  rw [← State.blinkStep_withResp, ← State.driveSegment_withResp]
  rfl

end Sys2Proof.Machine
end

