-- ==== Sys2Proof/Proofs/TickCommands.lean ====
section
/-! SUPPORT. NOP and TICK (44_tick.md): each line of TICK as the separate command it calls, performed
with any last response in the state; the registers that TICK's response copies; and O53 and O54
assembled from them. -/

namespace Sys2Proof.Machine

/-! ### NOP (R176) -/

theorem exec_nop (s : State) : exec .nop s = .next s.respondPlain := rfl

/-- Settles O53: NOP writes the response alone. -/
theorem nopChangesNothing : Obligations.NopChangesNothing := by
  intro s
  rw [exec_nop, State.respondPlain_eq]

/-! ### The lines of TICK as separate commands (R177) -/

/-- The second and third line of TICK: ROLL.START on DOWN_EDGE, ROLL.SLOW on UP_EDGE, and otherwise no
command (R177 (a)). -/
theorem exec_feedEdge_withResp (s : State) (r : Option Response) : ∃ q,
    if s.edge = ButtonState.downEdge.code then
      exec .rollStart (s.withResp r) = .next (s.feedEdge.withResp q)
    else if s.edge = ButtonState.upEdge.code then
      exec .rollSlow (s.withResp r) = .next (s.feedEdge.withResp q)
    else s.feedEdge.withResp q = s.withResp r := by
  rw [State.feedEdge_eq, ButtonState.code, ButtonState.code]
  split_ifs
  · exact ⟨_, exec_rollStart _⟩
  · exact ⟨_, exec_rollSlow _⟩
  · exact ⟨r, rfl⟩

/-- The fourth line of TICK: ROLL.UPDATE, whose response holds the event. -/
theorem exec_rollUpdate_withResp (s : State) (r : Option Response) : ∃ q,
    exec .rollUpdate (s.withResp r) = .next (s.rollUpdate.2.withResp q) ∧
      (s.rollUpdate.2.withResp q).lastEvent = some s.rollUpdate.1.code := by
  rw [exec_rollUpdate (State.rollUpdate_withResp s r)]
  exact ⟨_, rfl, rfl⟩

/-- The fifth line of TICK: LED.BLINK on STOP, and otherwise no command (R177 (b)). -/
theorem exec_feedEvent_withResp (s : State) (e : RollEvent) (r : Option Response) : ∃ q,
    if e.code = RollEvent.stop.code then
      exec .ledBlink (s.withResp r) = .next ((s.feedEvent e).withResp q)
    else (s.feedEvent e).withResp q = s.withResp r := by
  cases e with
  | stop => exact ⟨_, exec_ledBlink _⟩
  | roll => exact ⟨r, rfl⟩
  | noEvent => exact ⟨r, rfl⟩

/-- The sixth line of TICK: LED.PUT, the rejection it may report standing in its response alone. -/
theorem exec_ledPut_withResp (s : State) (f : BitVec 3) (r : Option Response) : ∃ q,
    exec (.ledPut f) (s.withResp r) = .next ((s.ledPut f).2.withResp q) := by
  rw [exec, execLedPut, State.ledPut_withResp]
  exact ⟨_, rfl⟩

/-- The seventh line of TICK: LED.UPDATE. -/
theorem exec_ledUpdate_withResp (s : State) (r : Option Response) : ∃ q,
    exec .ledUpdate (s.withResp r) = .next (s.ledUpdate.withResp q) := by
  rw [exec_ledUpdate, State.ledUpdate_withResp]
  exact ⟨_, rfl⟩

/-! ### The registers that TICK's response copies -/

@[simp] theorem State.feedEdge_edge (s : State) : s.feedEdge.edge = s.edge := by
  rw [State.feedEdge_eq]
  split_ifs <;> rfl

@[simp] theorem State.rollUpdate_edge (s : State) : s.rollUpdate.2.edge = s.edge := by
  obtain ⟨v, m, f, h⟩ := s.rollUpdate_frame
  rw [h]

@[simp] theorem State.feedEvent_edge (s : State) (e : RollEvent) : (s.feedEvent e).edge = s.edge := by
  cases e <;> rfl

@[simp] theorem State.feedEvent_face (s : State) (e : RollEvent) : (s.feedEvent e).face = s.face := by
  cases e <;> rfl

@[simp] theorem State.ledPut_edge (s : State) (f : BitVec 3) : (s.ledPut f).2.edge = s.edge := by
  rw [State.ledPut_eq]

@[simp] theorem State.ledPut_face (s : State) (f : BitVec 3) : (s.ledPut f).2.face = s.face := by
  rw [State.ledPut_eq]

@[simp] theorem State.ledUpdate_edge (s : State) : s.ledUpdate.edge = s.edge := by
  obtain ⟨oe, lvl, log, c, m, h⟩ := s.ledUpdate_frame
  rw [h]

@[simp] theorem State.ledUpdate_face (s : State) : s.ledUpdate.face = s.face := by
  obtain ⟨oe, lvl, log, c, m, h⟩ := s.ledUpdate_frame
  rw [h]

/-- The button state of a TICK is that of its read. -/
theorem State.tick_edge (s : State) (x : Bool) : (s.tick x).2.edge = (s.debRead x).edge := by
  simp [State.tick_eq]

/-- The face of a TICK is that of its ROLL.UPDATE. -/
theorem State.tick_face (s : State) (x : Bool) :
    (s.tick x).2.face = (s.debRead x).feedEdge.rollUpdate.2.face := by
  simp [State.tick_eq]

/-! ### TICK (R177) -/

/-- TICK's response as its lines determine it, in any state that holds the registers it leaves. -/
theorem exec_tick {x : Bool} {s t u : State} {e : RollEvent} {q : Option Response}
    (htick : s.tick x = (e, t)) (hregs : u = t.withResp q) :
    exec (.tick x) s = .next { u with
      resp := some { quietResponse (s.debRead x).edge u.deb (s.debRead x).feedEdge.rollUpdate.2.face with
        event := e.code } } := by
  rw [exec, execTick, ← State.tick_edge, ← State.tick_face, htick, hregs]
  rfl

/-- Settles O54, line by line: each command finds the response of the one before in the state and does
not read it. -/
theorem tickIsTheSeparateCommandsInOrder : Obligations.TickIsTheSeparateCommandsInOrder := by
  intro x s
  let u := (s.debRead x).feedEdge.rollUpdate
  let v := u.2.feedEvent u.1
  let w := (v.ledPut u.2.face).2
  obtain ⟨r₁, hread⟩ : ∃ r, exec (.debRead x) s = .next ((s.debRead x).withResp r) :=
    ⟨_, exec_debRead x s⟩
  obtain ⟨r₂, hedge⟩ := exec_feedEdge_withResp (s.debRead x) r₁
  obtain ⟨r₃, hroll, hevent⟩ := exec_rollUpdate_withResp (s.debRead x).feedEdge r₂
  obtain ⟨r₄, hblink⟩ := exec_feedEvent_withResp u.2 u.1 r₃
  obtain ⟨r₅, hput⟩ := exec_ledPut_withResp v u.2.face r₄
  obtain ⟨r₆, hscan⟩ := exec_ledUpdate_withResp w r₅
  have htick : s.tick x = (u.1, w.ledUpdate) := by
    rw [State.tick_eq, State.feedEvent_face]
  refine ⟨(s.debRead x).withResp r₁, (s.debRead x).feedEdge.withResp r₂, u.2.withResp r₃,
    v.withResp r₄, w.withResp r₅, w.ledUpdate.withResp r₆, u.1.code,
    hread, hedge, hroll, hevent, hblink, hput, hscan, ?_⟩
  rw [State.withResp_edge (s.debRead x), State.withResp_face u.2]
  exact exec_tick htick rfl

end Sys2Proof.Machine
end

