-- ==== Sys2Proof/Proofs/Completion.lean ====
section
/-! SUPPORT. Every command ends by writing its response (60_exceptions.md R190), and a presented word is
either performed as its command or rejected as reserved; O9 assembled from the two. -/

namespace Sys2Proof.Machine

/-- The last thing every command does is to respond: what its own arm reports, or the plain response of
R60. -/
theorem exec_eq_respond (i : Instr) (s : State) : ∃ u ill e w,
    exec i s = .next (State.respond u ill e w) := by
  cases i with
  | prngNext => exact ⟨_, _, _, _, exec_prngNext s⟩
  | prngGet => exact ⟨_, _, _, _, exec_prngGet s⟩
  | rollUpdate => exact ⟨_, _, _, _, exec_rollUpdate rfl⟩
  | ledPut f => exact ⟨_, (s.ledPut f).1, .noEvent, _, rfl⟩
  | tick x => exact ⟨_, false, (s.tick x).1, _, rfl⟩
  | _ => exact ⟨_, false, .noEvent, 0#128, rfl⟩

/-- Every command answers a next state that holds a response. -/
theorem exec_answers (i : Instr) (s : State) : ∃ t r, exec i s = .next t ∧ t.resp = some r := by
  obtain ⟨u, ill, e, w, h⟩ := exec_eq_respond i s
  exact ⟨_, _, h, State.respond_resp u ill e w⟩

theorem step_of_decode_ok {s : State} {c : Command} {i : Instr} (hcfg : s.cfg.wellFormed = true)
    (hp : s.presented = .command c) (hd : decode c = .ok i) : step s = exec i s.consumed := by
  simp [step, hcfg, hp, hd]

/-- A presented word, defined or reserved, is answered with a response. -/
theorem step_command_answers {s : State} {c : Command} (hcfg : s.cfg.wellFormed = true)
    (hp : s.presented = .command c) : ∃ t r, step s = .next t ∧ t.resp = some r := by
  cases hd : decode c with
  | ok i =>
    rw [step_of_decode_ok hcfg hp hd]
    exact exec_answers i s.consumed
  | error e => exact ⟨_, _, step_of_decode_error hcfg hp hd, State.performReserved_resp _⟩

/-- Settles O9: the two parts are completion of the command and of the step that a command word gets. -/
theorem everyCommandCompletes : Obligations.EveryCommandCompletes :=
  ⟨exec_answers, fun _ _ _ hcfg hhost => step_command_answers hcfg (State.presented_of_host hhost)⟩

end Sys2Proof.Machine
end

