-- ==== Sys2Proof/Proofs/ResetEvent.lean ====
section
/-! SUPPORT. RESET as an event (70_reset_and_hazards.md R210, R211): the step at which the host applies
it, what each register holds after it, one rule per register in the order of 10_state.md R33, and O14
assembled from them. `s` has no rule: R212 leaves it free. -/

namespace Sys2Proof.Machine

theorem step_of_presented_reset {s : State} (hcfg : s.cfg.wellFormed = true)
    (hp : s.presented = .reset) : step s = .next s.consumed.performReset := by
  simp [step, hcfg, hp]

/-! ### The debouncer -/

@[simp] theorem State.performReset_hist (s : State) : s.performReset.hist = 0x00#8 := State.reset_hist
@[simp] theorem State.performReset_deb (s : State) : s.performReset.deb = false := State.reset_deb
@[simp] theorem State.performReset_edge (s : State) : s.performReset.edge = 0b00#2 := State.reset_edge

/-! ### The roll engine -/

@[simp] theorem State.performReset_pressed (s : State) : s.performReset.pressed = false :=
  State.reset_pressed
@[simp] theorem State.performReset_speed (s : State) : s.performReset.speed = 0 := State.reset_speed
@[simp] theorem State.performReset_timer (s : State) : s.performReset.timer = 0 := State.reset_timer
@[simp] theorem State.performReset_face (s : State) : s.performReset.face = 0#3 := State.reset_face

@[simp] theorem State.performReset_rollMode (s : State) : s.performReset.rollMode = some .idle :=
  State.rollMode_eq_idle_iff.mpr ⟨s.performReset_pressed, s.performReset_speed⟩

/-! ### The LED unit -/

@[simp] theorem State.performReset_pattern (s : State) : s.performReset.pattern = 0b000000#6 :=
  State.reset_pattern
@[simp] theorem State.performReset_blinkCount (s : State) : s.performReset.blinkCount = 0#3 :=
  State.reset_blinkCount
@[simp] theorem State.performReset_blinkTimer (s : State) : s.performReset.blinkTimer = 0 :=
  State.reset_blinkTimer
@[simp] theorem State.performReset_scan (s : State) : s.performReset.scan = 0#3 := State.reset_scan
@[simp] theorem State.performReset_lineOe (s : State) : s.performReset.lineOe = 0b000#3 :=
  State.reset_lineOe
@[simp] theorem State.performReset_lineLvl (s : State) : s.performReset.lineLvl = 0b000#3 :=
  State.reset_lineLvl

/-! ### What the machine has shown (R211) -/

@[simp] theorem State.performReset_driveLog (s : State) : s.performReset.driveLog = [] := rfl
@[simp] theorem State.performReset_resp (s : State) : s.performReset.resp = none := rfl

/-- Settles O14: the step performs RESET, and the registers follow one by one. -/
theorem resetEventRestoresTheResetValues : Obligations.ResetEventRestoresTheResetValues := by
  intro s rest hcfg hhost
  have hstep : step s = .next s.consumed.performReset :=
    step_of_presented_reset hcfg (State.presented_of_host hhost)
  refine ⟨s.consumed.performReset, hstep, ?_⟩
  simp [ButtonState.code]

end Sys2Proof.Machine
end

