-- ==== Sys2Proof/Proofs/Encoding.lean ====
section
/-! SUPPORT. The decoder on the encodings (30_encoding.md R55 to R59): the pair of a command has the
nibbles of its encoding, so its format accepts it and reads its operand back; O1, with the inversion of
the decoder, and O4. -/

namespace Sys2Proof

open Sys2Proof.Machine

/-! ### The nibbles of a command's pair -/

theorem Command.Encodes.op_eq {c : Command} {i : Instr} (h : c.Encodes i) : c.op = (encode i).op := by
  obtain ⟨hcw, -⟩ := h
  simp [Command.op, encode, hcw]

theorem Command.Encodes.imm_eq {c : Command} {i : Instr} (h : c.Encodes i) :
    c.imm = (encode i).imm := by
  obtain ⟨hcw, -⟩ := h
  simp [Command.imm, encode, hcw]

/-- A sample leaves the must-be-zero bits of format S alone. -/
theorem sample_and_mask (x : Bool) : (BitVec.ofBool x).setWidth 4 &&& 0xE#4 = 0#4 := by
  cases x <;> rfl

/-- A face leaves the must-be-zero bit of format F alone. -/
theorem face_and_mask (f : BitVec 3) : f.setWidth 4 &&& 0x8#4 = 0#4 := by
  revert f
  decide

/-! ### Both directions -/

/-- A pair that is a command's is decoded to that command. -/
theorem Command.decode_of_encodes {c : Command} {i : Instr} (h : c.Encodes i) : decode c = .ok i := by
  have himm := h.imm_eq
  obtain ⟨hcw, hdata⟩ := id h
  unfold decode
  rw [h.op_eq]
  cases i with
  | prngSet w =>
    obtain ⟨hop, hzero⟩ := encode_prngSet_nibbles w
    obtain rfl := hdata w rfl
    rw [hop]
    exact decodeZero_of_mask _ (by rw [himm, hzero]; rfl)
  | debRead x =>
    obtain ⟨hop, hsample⟩ := encode_debRead_nibbles x
    rw [hop]
    refine (decodeSample_of_mask _ (by rw [himm, hsample, sample_and_mask])).trans ?_
    rw [hcw, encodeWord_debRead_bit_zero]
  | ledPut f =>
    obtain ⟨hop, hface⟩ := encode_ledPut_nibbles f
    rw [hop]
    refine (decodeFace_of_mask _ (by rw [himm, hface, face_and_mask])).trans ?_
    rw [hcw, encodeWord_ledPut_low_three]
  | tick x =>
    obtain ⟨hop, hsample⟩ := encode_tick_nibbles x
    rw [hop]
    refine (decodeSample_of_mask _ (by rw [himm, hsample, sample_and_mask])).trans ?_
    rw [hcw, encodeWord_tick_bit_zero]
  | _ => exact decodeZero_of_mask _ (by rw [himm]; rfl)

/-- Settles O1: what the decoder accepts is some command's pair, and every command's pair is accepted. -/
theorem decodeAcceptsExactlyTheEncodings : Obligations.DecodeAcceptsExactlyTheEncodings :=
  fun _ _ => ⟨Command.encodes_of_decode, Command.decode_of_encodes⟩

/-- Settles O4: the first seven words are encodings, PRNG.SET's with its data; of the last two, one has
no opcode and one has a must-be-zero bit set. -/
theorem writtenOutWordsDecode : Obligations.WrittenOutWordsDecode := by
  refine ⟨?_, ?_, ?_, ?_, ?_, ?_, ?_, by decide, by decide⟩
  case refine_7 => exact Command.decode_of_encodes ⟨rfl, fun _ hw => Instr.prngSet.inj hw⟩
  all_goals exact Command.decode_of_encodes ⟨rfl, nofun⟩

end Sys2Proof
end

