-- ==== Sys2Proof/Proofs/ConfigCheck.lean ====
section
/-! SUPPORT. The check on a configuration against the constraints of 00_scope.md R5, constraint by
constraint; and O8 assembled from them. -/

namespace Sys2Proof.Machine

/-! ### The constraints that are not read off one number -/

theorem one_shiftLeft_six_getLsbD (k j : Nat) :
    (1#6 <<< k).getLsbD j = decide (j = k ∧ k < 6) := by
  rw [BitVec.getLsbD_shiftLeft, BitVec.getLsbD_one]
  grind

/-- A mask with at most one bit set is 0 or that bit. -/
theorem mask_eq_one_shiftLeft {m : BitVec 6} {j : Nat} (hj : m.getLsbD j = true)
    (hone : ∀ i, m.getLsbD i = true → i = j) : m = 1#6 <<< j := by
  have hj6 : j < 6 := BitVec.lt_of_getLsbD hj
  refine BitVec.eq_of_getLsbD_eq fun i _ => ?_
  rw [one_shiftLeft_six_getLsbD]
  by_cases hi : i = j
  · simp [hi, hj, hj6]
  · have hclear : m.getLsbD i = false := by
      cases h : m.getLsbD i with
      | false => rfl
      | true => exact absurd (hone i h) hi
    simp [hi, hclear]

theorem Config.indicatorOk_iff (c : Config) : c.indicatorOk = true ↔
    (∀ j : Nat, c.indicatorMask.getLsbD j = true → j < c.numElements) ∧
      ∀ j k : Nat, c.indicatorMask.getLsbD j = true → c.indicatorMask.getLsbD k = true → j = k := by
  simp only [Config.indicatorOk, Bool.or_eq_true, beq_iff_eq, List.any_eq_true, List.mem_range]
  constructor
  · rintro (hzero | ⟨k, hk, hmask⟩)
    · simp [hzero]
    · simp only [hmask, one_shiftLeft_six_getLsbD, decide_eq_true_eq]
      exact ⟨fun j hj => hj.1 ▸ hk, fun i j hi hj => hi.1.trans hj.1.symm⟩
  · rintro ⟨hbelow, hone⟩
    by_cases hset : ∃ j, c.indicatorMask.getLsbD j = true
    · obtain ⟨j, hj⟩ := hset
      exact .inr ⟨j, hbelow j hj, mask_eq_one_shiftLeft hj fun i hi => hone i j hi hj⟩
    · refine .inl (BitVec.eq_of_getLsbD_eq fun j _ => ?_)
      simpa using fun h => hset ⟨j, h⟩

theorem Config.sigPairsOk_iff (c : Config) :
    c.sigPairsOk = true ↔ ∀ k : Fin 6, c.sig[k].anode ≠ c.sig[k].cathode := by
  simp only [Config.sigPairsOk, List.all_eq_true, bne_iff_ne, List.forall_mem_iff_forall_getElem,
    Vector.length_toList, Vector.getElem_toList]
  exact ⟨fun h k => h k.val k.isLt, fun h k hk => h ⟨k, hk⟩⟩

/-- The scanned pairs are pairwise different, index by index. -/
theorem Config.sigDistinctOk_iff (c : Config) : c.sigDistinctOk = true ↔ ∀ j k : Fin 6,
    j.val < c.numElements → k.val < c.numElements → j ≠ k → c.sig[j] ≠ c.sig[k] := by
  simp only [Config.sigDistinctOk, decide_eq_true_eq, List.nodup_iff_pairwise_ne, List.pairwise_iff_getElem,
    List.length_take, Vector.length_toList, List.getElem_take, Vector.getElem_toList, lt_min_iff]
  constructor
  · intro h j k hj hk hne
    rcases Nat.lt_or_gt_of_ne (Fin.val_ne_of_ne hne) with hlt | hgt
    · exact h j k ⟨hj, j.isLt⟩ ⟨hk, k.isLt⟩ hlt
    · exact (h k j ⟨hk, k.isLt⟩ ⟨hj, j.isLt⟩ hgt).symm
  · intro h j k hj hk hlt
    exact h ⟨j, hj.2⟩ ⟨k, hk.2⟩ hj.1 hk.1 (by simpa using hlt.ne)

/-! ### All constraints together -/

/-- The check accepts exactly the configurations that meet R5's constraints. -/
theorem Config.wellFormed_iff (c : Config) : c.wellFormed = true ↔
    (c.numElements = 5 ∨ c.numElements = 6) ∧
    (∀ j : Nat, c.indicatorMask.getLsbD j = true → j < c.numElements) ∧
    (∀ j k : Nat, c.indicatorMask.getLsbD j = true → c.indicatorMask.getLsbD k = true → j = k) ∧
    (∀ k : Fin 6, c.sig[k].anode ≠ c.sig[k].cathode) ∧
    (∀ j k : Fin 6, j.val < c.numElements → k.val < c.numElements → j ≠ k → c.sig[j] ≠ c.sig[k]) ∧
    c.speedPrec < c.speedW ∧
    2 ≤ c.rollSpeed ∧ c.rollSpeed < 2 ^ c.speedW ∧
    1 ≤ c.rollPeriod ∧ c.rollSpeed / 2 ^ c.speedPrec ≤ c.rollPeriod ∧
    c.rollPeriod + c.rollSpeed / 2 ^ c.speedPrec ≤ 2 ^ c.timerW ∧
    2 ≤ c.speedW ∧ 1 ≤ c.timerW ∧ 1 ≤ c.blinkTimerW ∧
    c.blinkMax < 2 ^ c.blinkTimerW := by
  simp only [Config.wellFormed, Bool.and_eq_true, Config.elementsOk, Bool.or_eq_true, beq_iff_eq,
    Config.indicatorOk_iff, Config.sigPairsOk_iff, Config.sigDistinctOk_iff, Config.precOk, Config.speedOk,
    Config.periodOk, Config.widthsOk, Config.blinkOk, decide_eq_true_eq, Nat.shiftRight_eq_div_pow,
    and_assoc]

theorem step_of_illFormed {s : State} (h : s.cfg.wellFormed = false) :
    step s = .refused .invalidConfiguration := by
  simp [step, h]

/-- Settles O8: the check constraint by constraint, and the first test of the step. -/
theorem illFormedConfigurationIsRefused : Obligations.IllFormedConfigurationIsRefused :=
  ⟨Config.wellFormed_iff, fun _ => step_of_illFormed⟩

end Sys2Proof.Machine
end

