-- ==== Sys2Proof/Proofs/UnitFrames.lean ====
section
/-! SUPPORT. Which unit's registers each operation leaves alone: the registers of the debouncer, of the
roll engine and of the LED unit (10_state.md sections 3 to 5) and the fields that stand for the
environment, each group read off the state as one value, with one rule per operation and group. A
command is its registers' operation followed by its response (`exec_eq`); what it can do to each group. -/

namespace Sys2Proof.Machine

/-! ### The groups -/

/-- The registers of the debouncer (10_state.md R13 to R15). -/
structure DebouncerRegs where
  hist : BitVec 8
  deb : Bool
  edge : BitVec 2

/-- The registers of the roll engine (10_state.md R17 to R20). -/
structure RollRegs where
  pressed : Bool
  speed : Nat
  timer : Nat
  face : BitVec 3

/-- The registers of the LED unit and its drive log (10_state.md R23 to R27; 43_led.md R150). -/
structure LedRegs where
  pattern : BitVec 6
  blinkCount : BitVec 3
  blinkTimer : Nat
  scan : BitVec 3
  lineOe : BitVec 3
  lineLvl : BitVec 3
  driveLog : List Drive

/-- The model's own fields, which no command writes (log entries 1, 3, 4). -/
structure Environment where
  cfg : Config
  host : List HostAction
  resets : Nat

def State.debouncerRegs (s : State) : DebouncerRegs := ⟨s.hist, s.deb, s.edge⟩

def State.rollRegs (s : State) : RollRegs := ⟨s.pressed, s.speed, s.timer, s.face⟩

def State.ledRegs (s : State) : LedRegs :=
  ⟨s.pattern, s.blinkCount, s.blinkTimer, s.scan, s.lineOe, s.lineLvl, s.driveLog⟩

def State.environment (s : State) : Environment := ⟨s.cfg, s.host, s.resets⟩

theorem State.debouncerRegs_eq_iff {s t : State} : t.debouncerRegs = s.debouncerRegs ↔
    t.hist = s.hist ∧ t.deb = s.deb ∧ t.edge = s.edge := by
  simp [State.debouncerRegs]

theorem State.rollRegs_eq_iff {s t : State} : t.rollRegs = s.rollRegs ↔
    t.pressed = s.pressed ∧ t.speed = s.speed ∧ t.timer = s.timer ∧ t.face = s.face := by
  simp [State.rollRegs]

theorem State.ledRegs_eq_iff {s t : State} : t.ledRegs = s.ledRegs ↔
    t.pattern = s.pattern ∧ t.blinkCount = s.blinkCount ∧ t.blinkTimer = s.blinkTimer ∧
      t.scan = s.scan ∧ t.lineOe = s.lineOe ∧ t.lineLvl = s.lineLvl ∧ t.driveLog = s.driveLog := by
  simp [State.ledRegs]

@[simp] theorem State.respond_environment (s : State) (ill : Bool) (e : RollEvent) (w : Block) :
    (s.respond ill e w).environment = s.environment := rfl

/-! ### ROLL.UPDATE and what TICK feeds to the roll engine -/

@[simp] theorem State.rollUpdate_debouncerRegs (s : State) :
    s.rollUpdate.2.debouncerRegs = s.debouncerRegs := by
  obtain ⟨v, m, f, h⟩ := s.rollUpdate_frame
  rw [h]
  rfl

@[simp] theorem State.rollUpdate_ledRegs (s : State) : s.rollUpdate.2.ledRegs = s.ledRegs := by
  obtain ⟨v, m, f, h⟩ := s.rollUpdate_frame
  rw [h]
  rfl

@[simp] theorem State.rollUpdate_environment (s : State) :
    s.rollUpdate.2.environment = s.environment := by
  obtain ⟨v, m, f, h⟩ := s.rollUpdate_frame
  rw [h]
  rfl

@[simp] theorem State.rollUpdate_pressed (s : State) : s.rollUpdate.2.pressed = s.pressed := by
  obtain ⟨v, m, f, h⟩ := s.rollUpdate_frame
  rw [h]

/-- ROLL.UPDATE draws once or not at all (42_roll.md R123 (a)). -/
theorem State.rollUpdate_prng (s : State) : s.rollUpdate.2.prng =
    if s.pressed = false ∨ s.cfg.drawWhenPressed = true then s.prng.advance else s.prng := by
  obtain ⟨v, m, f, h⟩ := s.rollUpdate_frame
  rw [h]

@[simp] theorem State.feedEdge_debouncerRegs (s : State) :
    s.feedEdge.debouncerRegs = s.debouncerRegs := by
  rw [State.feedEdge_eq]
  split_ifs <;> rfl

@[simp] theorem State.feedEdge_ledRegs (s : State) : s.feedEdge.ledRegs = s.ledRegs := by
  rw [State.feedEdge_eq]
  split_ifs <;> rfl

@[simp] theorem State.feedEdge_environment (s : State) : s.feedEdge.environment = s.environment := by
  rw [State.feedEdge_eq]
  split_ifs <;> rfl

/-! ### The operations of the LED unit -/

@[simp] theorem State.feedEvent_debouncerRegs (s : State) (e : RollEvent) :
    (s.feedEvent e).debouncerRegs = s.debouncerRegs := by
  cases e <;> rfl

@[simp] theorem State.feedEvent_rollRegs (s : State) (e : RollEvent) :
    (s.feedEvent e).rollRegs = s.rollRegs := by
  cases e <;> rfl

@[simp] theorem State.feedEvent_environment (s : State) (e : RollEvent) :
    (s.feedEvent e).environment = s.environment := by
  cases e <;> rfl

@[simp] theorem State.feedEvent_prng (s : State) (e : RollEvent) : (s.feedEvent e).prng = s.prng := by
  cases e <;> rfl

@[simp] theorem State.ledPut_debouncerRegs (s : State) (f : BitVec 3) :
    (s.ledPut f).2.debouncerRegs = s.debouncerRegs := by
  rw [State.ledPut_eq]
  rfl

@[simp] theorem State.ledPut_rollRegs (s : State) (f : BitVec 3) :
    (s.ledPut f).2.rollRegs = s.rollRegs := by
  rw [State.ledPut_eq]
  rfl

@[simp] theorem State.ledPut_environment (s : State) (f : BitVec 3) :
    (s.ledPut f).2.environment = s.environment := by
  rw [State.ledPut_eq]
  rfl

@[simp] theorem State.ledPut_prng (s : State) (f : BitVec 3) : (s.ledPut f).2.prng = s.prng := by
  rw [State.ledPut_eq]

@[simp] theorem State.ledUpdate_debouncerRegs (s : State) :
    s.ledUpdate.debouncerRegs = s.debouncerRegs := by
  obtain ⟨oe, lvl, log, c, m, h⟩ := s.ledUpdate_frame
  rw [h]
  rfl

@[simp] theorem State.ledUpdate_rollRegs (s : State) : s.ledUpdate.rollRegs = s.rollRegs := by
  obtain ⟨oe, lvl, log, c, m, h⟩ := s.ledUpdate_frame
  rw [h]
  rfl

@[simp] theorem State.ledUpdate_environment (s : State) :
    s.ledUpdate.environment = s.environment := by
  obtain ⟨oe, lvl, log, c, m, h⟩ := s.ledUpdate_frame
  rw [h]
  rfl

@[simp] theorem State.ledUpdate_prng (s : State) : s.ledUpdate.prng = s.prng := by
  obtain ⟨oe, lvl, log, c, m, h⟩ := s.ledUpdate_frame
  rw [h]

/-! ### TICK, group by group (44_tick.md R177) -/

theorem State.tick_debouncerRegs (s : State) (x : Bool) :
    (s.tick x).2.debouncerRegs = (s.debRead x).debouncerRegs := by
  simp [State.tick_eq]

theorem State.tick_rollRegs (s : State) (x : Bool) :
    (s.tick x).2.rollRegs = (s.debRead x).feedEdge.rollUpdate.2.rollRegs := by
  simp [State.tick_eq]

theorem State.tick_prng (s : State) (x : Bool) :
    (s.tick x).2.prng = (s.debRead x).feedEdge.rollUpdate.2.prng := by
  simp [State.tick_eq]

theorem State.tick_environment (s : State) (x : Bool) :
    (s.tick x).2.environment = s.environment := by
  simp only [State.tick_eq, State.ledUpdate_environment, State.ledPut_environment,
    State.feedEvent_environment, State.rollUpdate_environment, State.feedEdge_environment]
  rfl

/-! ### A command is an operation on the registers and a response -/

/-- What a command does to the registers, its response aside (30_encoding.md R59, last column). -/
def State.perform (s : State) : Instr → State
  | .nop | .prngGet => s
  | .prngNext => s.draw
  | .prngJump => { s with prng := jumpWith jumpK s.prng }
  | .prngLjump => { s with prng := jumpWith ljumpK s.prng }
  | .prngSet w => { s with prng := PrngState.ofBlock w }
  | .debRead x => s.debRead x
  | .rollStart => s.rollStart
  | .rollSlow => s.rollSlow
  | .rollUpdate => s.rollUpdate.2
  | .ledPut f => (s.ledPut f).2
  | .ledBlink => s.ledBlink
  | .ledUnblink => s.ledUnblink
  | .ledUpdate => s.ledUpdate
  | .tick x => (s.tick x).2

/-- The event that a command reports (60_exceptions.md R194). -/
def State.eventOf (s : State) : Instr → RollEvent
  | .rollUpdate => s.rollUpdate.1
  | .tick x => (s.tick x).1
  | _ => .noEvent

/-- The data that a command answers (30_encoding.md R60). -/
def State.dataOf (s : State) : Instr → Block
  | .prngNext => s.prng.output.setWidth 128
  | .prngGet => s.prng.toBlock
  | _ => 0#128

/-- The command is rejected: LED.PUT of a face that the table does not hold (60_exceptions.md R191). -/
def Instr.rejected : Instr → Bool
  | .ledPut f => !(faceLut f).isSome
  | _ => false

theorem exec_eq (i : Instr) (s : State) : exec i s =
    .next ((s.perform i).respond (Instr.rejected i) (s.eventOf i) (s.dataOf i)) := by
  cases i with
  | ledPut f =>
    have hrejected : (s.ledPut f).1 = !(faceLut f).isSome := by rw [State.ledPut_eq]
    rw [exec, execLedPut, hrejected]
    rfl
  | _ => rfl

theorem eq_of_exec {i : Instr} {s t : State} (h : exec i s = .next t) :
    t = (s.perform i).respond (Instr.rejected i) (s.eventOf i) (s.dataOf i) :=
  Host.Outcome.next.inj (h.symm.trans (exec_eq i s))

/-! ### What a command can do to each group -/

/-- No command writes the environment's fields. -/
theorem State.perform_environment (s : State) (i : Instr) :
    (s.perform i).environment = s.environment := by
  cases i with
  | rollUpdate => exact s.rollUpdate_environment
  | ledPut f => exact s.ledPut_environment f
  | ledUpdate => exact s.ledUpdate_environment
  | tick x => exact s.tick_environment x
  | _ => rfl

/-- DEB.READ and TICK read the button; no other command writes the debouncer. -/
theorem State.perform_debouncerRegs (s : State) (i : Instr) :
    (s.perform i).debouncerRegs = s.debouncerRegs ∨
      ∃ x, (s.perform i).debouncerRegs = (s.debRead x).debouncerRegs := by
  cases i with
  | debRead x => exact .inr ⟨x, rfl⟩
  | tick x => exact .inr ⟨x, s.tick_debouncerRegs x⟩
  | rollUpdate => exact .inl s.rollUpdate_debouncerRegs
  | ledPut f => exact .inl (s.ledPut_debouncerRegs f)
  | ledUpdate => exact .inl s.ledUpdate_debouncerRegs
  | _ => exact .inl rfl

/-- The three ROLL commands and TICK write the roll engine; no other command does. -/
theorem State.perform_rollRegs (s : State) (i : Instr) :
    (s.perform i).rollRegs = s.rollRegs ∨ (s.perform i).rollRegs = s.rollStart.rollRegs ∨
      (s.perform i).rollRegs = s.rollSlow.rollRegs ∨
      (s.perform i).rollRegs = s.rollUpdate.2.rollRegs ∨
      ∃ x, (s.perform i).rollRegs = (s.debRead x).feedEdge.rollUpdate.2.rollRegs := by
  cases i with
  | rollStart => exact .inr (.inl rfl)
  | rollSlow => exact .inr (.inr (.inl rfl))
  | rollUpdate => exact .inr (.inr (.inr (.inl rfl)))
  | tick x => exact .inr (.inr (.inr (.inr ⟨x, s.tick_rollRegs x⟩)))
  | ledPut f => exact .inl (s.ledPut_rollRegs f)
  | ledUpdate => exact .inl s.ledUpdate_rollRegs
  | _ => exact .inl rfl

/-- A property of the LED unit's registers that its four operations keep is kept by every command. -/
theorem State.perform_led_induction {P : State → Prop}
    (congr : ∀ s t : State, t.environment = s.environment → t.ledRegs = s.ledRegs → P s → P t)
    (put : ∀ s f, P s → P (s.ledPut f).2) (blink : ∀ s, P s → P s.ledBlink)
    (unblink : ∀ s, P s → P s.ledUnblink) (update : ∀ s, P s → P s.ledUpdate)
    {s : State} (hs : P s) (i : Instr) : P (s.perform i) := by
  have hprng : ∀ p, P { s with prng := p } := fun _ => congr s _ rfl rfl hs
  cases i with
  | ledPut f => exact put s f hs
  | ledBlink => exact blink s hs
  | ledUnblink => exact unblink s hs
  | ledUpdate => exact update s hs
  | rollUpdate => exact congr s _ s.rollUpdate_environment s.rollUpdate_ledRegs hs
  | tick x =>
    have hread : P (s.debRead x) := congr s _ rfl rfl hs
    have hedge : P (s.debRead x).feedEdge :=
      congr _ _ (State.feedEdge_environment _) (State.feedEdge_ledRegs _) hread
    have hroll : P (s.debRead x).feedEdge.rollUpdate.2 :=
      congr _ _ (State.rollUpdate_environment _) (State.rollUpdate_ledRegs _) hedge
    have hevent : ∀ e u, P u → P (State.feedEvent u e) := fun e u hu => by
      cases e with
      | stop => exact blink u hu
      | roll => exact hu
      | noEvent => exact hu
    rw [State.perform, State.tick_eq]
    dsimp only
    exact update _ (put _ _ (hevent _ _ hroll))
  | prngJump | prngLjump | prngSet => exact hprng _
  | _ => exact congr s _ rfl rfl hs

end Sys2Proof.Machine
end

