-- ==== Sys2Proof/Proofs/HostPort.lean ====
section
/-! SUPPORT. What the host presents and what it is answered (30_encoding.md R55, R60; 44_tick.md R176):
the step of a decoded command, of the idle port and of RESET, the fields no step writes, the response
field by field; O5, O7, O10, O11, O12 and O15. -/

namespace Sys2Proof.Machine

/-! ### The step by what is presented -/

/-- Settles O5: the rule of a step whose word decodes, the host's choice taken off. -/
theorem stepRunsTheDecodedCommand : Obligations.StepRunsTheDecodedCommand := by
  intro s c rest i hcfg hhost hd
  rw [step_of_decode_ok hcfg (State.presented_of_host hhost) hd, State.consumed_of_host hhost]

theorem State.presented_of_idle {s : State} (h : s.host = []) : s.presented = .command idleCommand := by
  simp [State.presented, h]

theorem State.consumed_of_idle {s : State} (h : s.host = []) : s.consumed = s := by
  rw [State.consumed, h, List.tail_nil, ← h]

theorem decode_idleCommand : decode idleCommand = .ok .nop :=
  Command.decode_of_encodes ⟨rfl, nofun⟩

/-- Settles O7: the idle port carries the word of NOP. -/
theorem idlePortPerformsNop : Obligations.IdlePortPerformsNop := by
  intro s hcfg hidle
  rw [step_of_decode_ok hcfg (State.presented_of_idle hidle) decode_idleCommand,
    State.consumed_of_idle hidle]

/-- Settles O10: RESET answers a state, and a command word answers a response as well. -/
theorem everyStepOfALegalConfigurationAnswers :
    Obligations.EveryStepOfALegalConfigurationAnswers := by
  intro s hcfg
  cases hp : s.presented with
  | reset => exact ⟨_, step_of_presented_reset hcfg hp, fun h => absurd rfl h⟩
  | command c =>
    obtain ⟨t, r, ht, hr⟩ := step_command_answers hcfg hp
    exact ⟨t, ht, fun _ => ⟨r, hr⟩⟩

/-! ### What no step writes -/

theorem exec_environment {i : Instr} {s t : State} (h : exec i s = .next t) :
    t.environment = s.environment := by
  rw [eq_of_exec h, State.respond_environment, State.perform_environment]

theorem exec_cfg {i : Instr} {s t : State} (h : exec i s = .next t) : t.cfg = s.cfg :=
  congrArg Environment.cfg (exec_environment h)

theorem exec_host {i : Instr} {s t : State} (h : exec i s = .next t) : t.host = s.host :=
  congrArg Environment.host (exec_environment h)

@[simp] theorem State.performReset_cfg (s : State) : s.performReset.cfg = s.cfg := rfl

/-- Settles O11, by the three things a step can be: RESET, a command, a reserved word. -/
theorem stepTakesOneChoiceAndKeepsTheConfiguration :
    Obligations.StepTakesOneChoiceAndKeepsTheConfiguration := by
  intro s t hstep
  obtain ⟨-, ⟨-, rfl⟩ | ⟨c, i, -, -, hexec⟩ | ⟨c, e, -, -, rfl⟩⟩ := step_cases hstep
  · exact ⟨rfl, rfl⟩
  · exact ⟨(exec_host hexec).trans s.consumed_host, (exec_cfg hexec).trans s.consumed_cfg⟩
  · exact ⟨rfl, rfl⟩

/-- Settles O15: a step that answers has a legal configuration, so with RESET presented it is RESET. -/
theorem resetEventKeepsTheModelsOwnFields : Obligations.ResetEventKeepsTheModelsOwnFields := by
  intro s t rest hhost hstep
  obtain ⟨hcfg, -⟩ := step_cases hstep
  rw [step_of_presented_reset hcfg (State.presented_of_host hhost), State.consumed_of_host hhost] at hstep
  obtain rfl := Host.Outcome.next.inj hstep
  exact ⟨rfl, rfl, rfl⟩

/-! ### The response of a command (R60, R63; 60_exceptions.md R191, R194) -/

/-- A command is rejected exactly when it is LED.PUT of face 6 or 7. -/
theorem Instr.rejected_eq_true_iff (i : Instr) :
    Instr.rejected i = true ↔ ∃ f : BitVec 3, i = .ledPut f ∧ 6 ≤ f.toNat := by
  cases i with
  | ledPut f => simp [Instr.rejected, faceLut_isSome, Nat.lt_iff_add_one_le]
  | _ => simp [Instr.rejected]

theorem RollEvent.code_ne_three (e : RollEvent) : e.code ≠ 0b11#2 := by
  cases e <;> decide

/-- An event is reported by ROLL.UPDATE and TICK alone. -/
theorem State.eventOf_ne_noEvent {s : State} {i : Instr} (h : s.eventOf i ≠ .noEvent) :
    i = .rollUpdate ∨ ∃ x, i = .tick x := by
  cases i with
  | rollUpdate => exact .inl rfl
  | tick x => exact .inr ⟨x, rfl⟩
  | _ => exact absurd rfl h

/-- Data are answered by PRNG.NEXT and PRNG.GET alone. -/
theorem State.dataOf_eq_zero {s : State} {i : Instr} (hnext : i ≠ .prngNext) (hget : i ≠ .prngGet) :
    s.dataOf i = 0#128 := by
  cases i with
  | prngNext => exact absurd rfl hnext
  | prngGet => exact absurd rfl hget
  | _ => rfl

/-- Settles O12: the response is written after the registers, from what the command reports. -/
theorem responseOfEveryCommand : Obligations.ResponseOfEveryCommand := by
  intro i s t h
  obtain rfl := eq_of_exec h
  refine ⟨_, State.respond_resp .., rfl, rfl, rfl, Instr.rejected_eq_true_iff i,
    RollEvent.code_ne_three _, fun hevent => ?_, ?_, ?_, State.dataOf_eq_zero⟩
  · exact State.eventOf_ne_noEvent fun hnone => hevent (congrArg RollEvent.code hnone)
  · rintro rfl
    rfl
  · rintro rfl
    rfl

end Sys2Proof.Machine
end

