-- ==== Sys2Proof/Proofs/DebouncerInvariant.lean ====
section
/-! SUPPORT. What every step keeps, packaged once over what a step can be; a read of the debouncer as the
pair of flags that its edge register holds (30_encoding.md R62); the debouncer's invariants (10_state.md
R16) and O17; the ButtonState table (41_debouncer.md R105) and O36. -/

namespace Sys2Proof.Machine

/-! ### What every step keeps -/

/-- A property that the registers decide is kept by every step when RESET sets it up and every command
keeps it. -/
theorem step_keeps {P : State → Prop} (respond : ∀ s ill e w, P s → P (State.respond s ill e w))
    (consumed : ∀ s, P s → P s.consumed)
    (reset : ∀ s : State, s.cfg.wellFormed = true → P s.performReset)
    (perform : ∀ (s : State) i, s.cfg.wellFormed = true → P s → P (s.perform i))
    {s t : State} (hs : P s) (hstep : step s = .next t) : P t := by
  obtain ⟨hcfg, ⟨-, rfl⟩ | ⟨c, i, -, -, hexec⟩ | ⟨c, e, -, -, rfl⟩⟩ := step_cases hstep
  · exact reset s.consumed hcfg
  · rw [eq_of_exec hexec]
    exact respond _ _ _ _ (perform s.consumed i hcfg (consumed s hs))
  · exact respond _ _ _ _ (consumed s hs)

/-! ### The two flags of the edge register -/

/-- The ButtonState of the previous and the current debounced flag. -/
def ButtonState.ofFlags : Bool → Bool → ButtonState
  | false, false => .up
  | false, true => .downEdge
  | true, false => .upEdge
  | true, true => .down

@[simp] theorem ButtonState.ofCode_code (b : ButtonState) : ButtonState.ofCode b.code = b := by
  cases b <;> rfl

theorem ButtonState.code_inj {a b : ButtonState} : a.code = b.code ↔ a = b :=
  ⟨fun h => by rw [← ofCode_code a, h, ofCode_code], congrArg code⟩

theorem ButtonState.ofFlags_eq_downEdge_iff {p c : Bool} :
    ButtonState.ofFlags p c = .downEdge ↔ p = false ∧ c = true := by
  cases p <;> cases c <;> simp [ofFlags]

theorem ButtonState.ofFlags_eq_upEdge_iff {p c : Bool} :
    ButtonState.ofFlags p c = .upEdge ↔ p = true ∧ c = false := by
  cases p <;> cases c <;> simp [ofFlags]

/-- The edge register takes in the flag and keeps the one before. -/
theorem edgeStep_eq_code (e : BitVec 2) (d : Bool) :
    edgeStep e d = (ButtonState.ofFlags (e.getLsbD 0) d).code := by
  revert e d
  decide

theorem edgeStep_getLsbD_zero (e : BitVec 2) (d : Bool) : (edgeStep e d).getLsbD 0 = d := by
  revert e d
  decide

/-- The history after eight equal samples. -/
def uniformHist (x : Bool) : BitVec 8 := if x then 0xFF#8 else 0x00#8

@[simp] theorem hysteresis_uniformHist (x d : Bool) : hysteresis (uniformHist x) d = x := by
  cases x <;> rfl

/-- The flag changes on a uniform history against it alone (41_debouncer.md R103). -/
theorem eq_of_hysteresis_ne {h : BitVec 8} {d : Bool} (hne : hysteresis h d ≠ d) :
    h = uniformHist (!d) := by
  unfold hysteresis at hne
  split_ifs at hne with hset hclear
  · cases d <;> simp_all [uniformHist]
  · cases d <;> simp_all [uniformHist]
  · exact absurd rfl hne

/-! ### The invariants of the debouncer -/

theorem DebouncerInvariant.congr {s t : State} (hs : DebouncerInvariant s)
    (h : t.debouncerRegs = s.debouncerRegs) : DebouncerInvariant t := by
  obtain ⟨hhist, hdeb, hedge⟩ := State.debouncerRegs_eq_iff.mp h
  exact ⟨by rw [hedge, hdeb, hs.edgeIsTagged], by rw [hhist, hdeb]; exact hs.allSet,
    by rw [hhist, hdeb]; exact hs.allClear, by rw [hedge, hhist]; exact hs.downEdge,
    by rw [hedge, hhist]; exact hs.upEdge⟩

/-- After a read the edge register holds the flag before it and the flag after it. -/
theorem DebouncerInvariant.debRead_edge {s : State} (hs : DebouncerInvariant s) (x : Bool) :
    (s.debRead x).edge = (ButtonState.ofFlags s.deb (s.debRead x).deb).code := by
  rw [State.debRead_edge, edgeStep_eq_code, hs.edgeIsTagged, State.debRead_deb]

theorem State.debRead_hist_of_deb_ne {s : State} {x : Bool} (h : (s.debRead x).deb ≠ s.deb) :
    (s.debRead x).hist = uniformHist (!s.deb) :=
  eq_of_hysteresis_ne h

/-- A read keeps the invariants: both edges need a flag that has just changed. -/
theorem DebouncerInvariant.debRead {s : State} (hs : DebouncerInvariant s) (x : Bool) :
    DebouncerInvariant (s.debRead x) where
  edgeIsTagged := by rw [State.debRead_edge, edgeStep_getLsbD_zero, State.debRead_deb]
  allSet h := by rw [State.debRead_deb, ← State.debRead_hist, h]; rfl
  allClear h := by rw [State.debRead_deb, ← State.debRead_hist, h]; rfl
  downEdge h := by
    rw [hs.debRead_edge, ButtonState.code_inj, ButtonState.ofFlags_eq_downEdge_iff] at h
    obtain ⟨hold, hnew⟩ := h
    rw [State.debRead_hist_of_deb_ne (by rw [hold, hnew]; decide), hold]
    rfl
  upEdge h := by
    rw [hs.debRead_edge, ButtonState.code_inj, ButtonState.ofFlags_eq_upEdge_iff] at h
    obtain ⟨hold, hnew⟩ := h
    rw [State.debRead_hist_of_deb_ne (by rw [hold, hnew]; decide), hold]
    rfl

theorem DebouncerInvariant.performReset (s : State) : DebouncerInvariant s.performReset :=
  ⟨by simp, by simp, by simp, by simp [ButtonState.code], by simp [ButtonState.code]⟩

theorem DebouncerInvariant.perform {s : State} (hs : DebouncerInvariant s) (i : Instr) :
    DebouncerInvariant (s.perform i) := by
  obtain h | ⟨x, h⟩ := s.perform_debouncerRegs i
  · exact hs.congr h
  · exact (hs.debRead x).congr h

/-- Settles O17: RESET sets the invariants up, a read keeps them, and no other command writes the
debouncer. -/
theorem stepKeepsTheDebouncerInvariant : Obligations.StepKeepsTheDebouncerInvariant :=
  fun _ _ => step_keeps (fun _ _ _ _ h => h.congr rfl) (fun _ h => h.congr rfl)
    (fun s _ => .performReset s) (fun _ i _ h => h.perform i)

/-! ### The ButtonState table (R105) -/

theorem ButtonState.ofCode_eq_iff {e : BitVec 2} {b : ButtonState} :
    ButtonState.ofCode e = b ↔ e = b.code := by
  have hcode : ∀ e : BitVec 2, (ButtonState.ofCode e).code = e := by decide
  exact ⟨fun h => by rw [← h, hcode], fun h => by rw [h, ofCode_code]⟩

theorem hysteresis_false (h : BitVec 8) : hysteresis h false = decide (h = 0xFF#8) := by
  unfold hysteresis
  split_ifs <;> simp_all

theorem hysteresis_true (h : BitVec 8) : hysteresis h true = !decide (h = 0x00#8) := by
  unfold hysteresis
  split_ifs <;> simp_all

/-- A history that is uniform is not uniform the other way one read later. -/
theorem shiftIn_allSet_ne (x : Bool) : shiftIn 0xFF#8 x ≠ 0x00#8 := by
  cases x <;> decide

theorem shiftIn_allClear_ne (x : Bool) : shiftIn 0x00#8 x ≠ 0xFF#8 := by
  cases x <;> decide

/-- From a ButtonState with the current flag `d`, the ButtonState after a read. -/
theorem DebouncerInvariant.ofCode_debRead_edge {s : State} (hs : DebouncerInvariant s) {b : ButtonState}
    (h : s.edge = b.code) {d : Bool} (hd : b.code.getLsbD 0 = d) (x : Bool) :
    ButtonState.ofCode (s.debRead x).edge =
      ButtonState.ofFlags d (hysteresis (s.debRead x).hist d) := by
  have hdeb : s.deb = d := by rw [← hs.edgeIsTagged, h, hd]
  rw [hs.debRead_edge, ButtonState.ofCode_code, State.debRead_deb, hdeb, State.debRead_hist]

/-- Settles O36: the flag before the read is the current flag of the ButtonState, and the read changes it
on a uniform history against it, which cannot follow an edge. -/
theorem buttonStateFollowsTheTransitionTable : Obligations.ButtonStateFollowsTheTransitionTable := by
  intro x s hs
  simp only [ButtonState.ofCode_eq_iff (e := s.edge)]
  refine ⟨_, exec_debRead x s, fun h => ?_, fun h => ?_, fun h => ?_, fun h => ?_⟩
  all_goals rw [State.respondPlain_edge]
  · rw [hs.ofCode_debRead_edge h (d := false) rfl, hysteresis_false, State.respondPlain_hist]
    split_ifs with hhist <;> simp only [hhist] <;> rfl
  · rw [hs.ofCode_debRead_edge h (d := true) rfl, hysteresis_true, State.debRead_hist, hs.downEdge h,
      decide_eq_false (shiftIn_allSet_ne x)]
    rfl
  · rw [hs.ofCode_debRead_edge h (d := true) rfl, hysteresis_true, State.respondPlain_hist]
    split_ifs with hhist <;> simp only [hhist] <;> rfl
  · rw [hs.ofCode_debRead_edge h (d := false) rfl, hysteresis_false, State.debRead_hist, hs.upEdge h,
      decide_eq_false (shiftIn_allClear_ne x)]
    rfl

end Sys2Proof.Machine
end

