-- ==== Sys2Proof/Proofs/RollInvariant.lean ====
section
/-! SUPPORT. The roll engine's invariants (10_state.md R21): each operation of the engine keeps them under
the constraints of R5; O18 follows, and O21 from
the bounds that the invariants put on the registers. -/

namespace Sys2Proof.Machine

theorem RollInvariant.congr {s t : State} (hs : RollInvariant s) (hcfg : t.cfg = s.cfg)
    (h : t.rollRegs = s.rollRegs) : RollInvariant t := by
  obtain ⟨hpressed, hspeed, htimer, hface⟩ := State.rollRegs_eq_iff.mp h
  exact ⟨by rw [hface]; exact hs.faceOk, by rw [htimer, hcfg]; exact hs.timerOk,
    by rw [hpressed, hspeed, hcfg]; exact hs.pressedOk,
    by rw [hpressed, hspeed, hcfg]; exact hs.releasedOk⟩

/-- In both of its clauses the speed is at most the rolling speed. -/
theorem RollInvariant.speed_le {s : State} (hs : RollInvariant s) : s.speed ≤ s.cfg.rollSpeed := by
  cases hp : s.pressed with
  | true => exact (hs.pressedOk hp).le
  | false => exact (hs.releasedOk hp).trans (Nat.shiftRight_le _ 1)

/-- A face computed modulo 6 is that number. -/
theorem ofNat_mod_numFaces_toNat (n : Nat) : (BitVec.ofNat 3 (n % numFaces)).toNat = n % 6 := by
  rw [BitVec.toNat_ofNat, numFaces]
  omega

/-- One accumulation is at most the period (R5's second constraint on `ROLL_PERIOD`). -/
theorem Config.accumulation_le {c : Config} (h : c.wellFormed = true) {v : Nat}
    (hv : v ≤ c.rollSpeed) : v / 2 ^ c.speedPrec ≤ c.rollPeriod := by
  obtain ⟨-, -, -, -, -, hperiod, -⟩ := Config.bounds h
  rw [Nat.shiftRight_eq_div_pow] at hperiod
  exact (Nat.div_le_div_right hv).trans hperiod

/-! ### The operations of the engine -/

theorem RollInvariant.rollStart {s : State} (hs : RollInvariant s) (hcfg : s.cfg.wellFormed = true) :
    RollInvariant s.rollStart := by
  rw [State.rollStart_eq hcfg]
  exact ⟨hs.faceOk, hs.timerOk, fun _ => rfl, nofun⟩

theorem RollInvariant.rollSlow {s : State} (hs : RollInvariant s) (hcfg : s.cfg.wellFormed = true) :
    RollInvariant s.rollSlow := by
  rw [State.rollSlow_eq hcfg]
  refine ⟨?_, hs.timerOk, nofun, fun _ => le_rfl⟩
  rw [ofNat_mod_numFaces_toNat]
  omega

theorem RollInvariant.backgroundDraw {s : State} (hs : RollInvariant s) :
    RollInvariant s.backgroundDraw := by
  rw [State.backgroundDraw_eq]
  exact hs.congr rfl rfl

/-- An accumulation wraps the timer below the period: it exceeds the period by less than the timer it
started from. -/
theorem RollInvariant.accumulate {s : State} (hs : RollInvariant s) (hcfg : s.cfg.wellFormed = true) :
    RollInvariant s.accumulate.2 := by
  have htimer := hs.timerOk
  have hadd := Config.accumulation_le hcfg hs.speed_le
  have hfits := Config.accumulation_lt hcfg htimer hs.speed_le
  by_cases hlt : s.timer + s.speed / 2 ^ s.cfg.speedPrec < s.cfg.rollPeriod
  · rw [State.accumulate_of_lt rfl hfits hlt]
    exact ⟨hs.faceOk, hlt, hs.pressedOk, hs.releasedOk⟩
  · rw [State.accumulate_of_ge rfl hfits (by omega)]
    refine ⟨?_, ?_, hs.pressedOk, hs.releasedOk⟩
    · rw [ofNat_mod_numFaces_toNat]
      omega
    · dsimp only
      omega

/-- Taking 1 off the speed of a slowing engine keeps the invariants. -/
theorem RollInvariant.slower {s : State} (hs : RollInvariant s) (hp : s.pressed = false) :
    RollInvariant { s with speed := s.speed - 1 } :=
  ⟨hs.faceOk, hs.timerOk, fun h => absurd (hp.symm.trans h) Bool.false_ne_true,
    fun _ => (Nat.sub_le _ 1).trans (hs.releasedOk hp)⟩

theorem RollInvariant.rollUpdate {s : State} (hs : RollInvariant s) (hcfg : s.cfg.wellFormed = true) :
    RollInvariant s.rollUpdate.2 := by
  have hdraw := hs.backgroundDraw
  have hcfg' : s.backgroundDraw.cfg.wellFormed = true := by rw [State.backgroundDraw_cfg, hcfg]
  by_cases hidle : s.speed = 0
  · rw [State.rollUpdate_of_idle hidle]
    exact ⟨hdraw.faceOk, Nat.zero_lt_of_lt hdraw.timerOk, hdraw.pressedOk, hdraw.releasedOk⟩
  · cases hp : s.pressed with
    | true =>
      rw [State.rollUpdate_of_pressed hp hidle]
      exact hdraw.accumulate hcfg'
    | false =>
      have hslower := hdraw.slower (s.backgroundDraw_pressed.trans hp)
      rw [State.backgroundDraw_speed] at hslower
      by_cases hlast : s.speed = 1
      · rw [State.rollUpdate_of_last hp hlast]
        rwa [hlast] at hslower
      · rw [State.rollUpdate_of_slowing hp (by omega) (Config.speed_lt hcfg hs.speed_le)]
        split
        · exact hslower.accumulate hcfg'
        · exact hslower

/-! ### Commands and steps -/

theorem RollInvariant.feedEdge {s : State} (hs : RollInvariant s) (hcfg : s.cfg.wellFormed = true) :
    RollInvariant s.feedEdge := by
  rw [State.feedEdge_eq]
  split_ifs
  · exact hs.rollStart hcfg
  · exact hs.rollSlow hcfg
  · exact hs

@[simp] theorem State.feedEdge_cfg (s : State) : s.feedEdge.cfg = s.cfg :=
  congrArg Environment.cfg s.feedEdge_environment

@[simp] theorem State.rollUpdate_cfg (s : State) : s.rollUpdate.2.cfg = s.cfg :=
  congrArg Environment.cfg s.rollUpdate_environment

@[simp] theorem State.perform_cfg (s : State) (i : Instr) : (s.perform i).cfg = s.cfg :=
  congrArg Environment.cfg (s.perform_environment i)

/-- What TICK does to the roll engine (44_tick.md R177). -/
theorem RollInvariant.tick {s : State} (hs : RollInvariant s) (hcfg : s.cfg.wellFormed = true)
    (x : Bool) : RollInvariant (s.debRead x).feedEdge.rollUpdate.2 := by
  have hread : RollInvariant (s.debRead x) := hs.congr rfl rfl
  exact (hread.feedEdge hcfg).rollUpdate (by rw [State.feedEdge_cfg]; exact hcfg)

theorem RollInvariant.perform {s : State} (hs : RollInvariant s) (hcfg : s.cfg.wellFormed = true)
    (i : Instr) : RollInvariant (s.perform i) := by
  obtain h | h | h | h | ⟨x, h⟩ := s.perform_rollRegs i
  · exact hs.congr (s.perform_cfg i) h
  · exact (hs.rollStart hcfg).congr (s.perform_cfg i) h
  · exact (hs.rollSlow hcfg).congr (s.perform_cfg i) h
  · exact (hs.rollUpdate hcfg).congr ((s.perform_cfg i).trans s.rollUpdate_cfg.symm) h
  · exact (hs.tick hcfg x).congr (by simp) h

theorem RollInvariant.performReset {s : State} (hcfg : s.cfg.wellFormed = true) :
    RollInvariant s.performReset := by
  obtain ⟨-, -, -, -, hperiod, -⟩ := Config.bounds hcfg
  exact ⟨by simp, by rw [State.performReset_timer]; exact hperiod, by simp, by simp⟩

/-- Settles O18: RESET sets the invariants up, and every operation of the roll engine keeps them. -/
theorem stepKeepsTheRollInvariant : Obligations.StepKeepsTheRollInvariant :=
  fun _ _ => step_keeps (fun _ _ _ _ h => h.congr rfl rfl) (fun _ h => h.congr rfl rfl)
    (fun _ hcfg => .performReset hcfg) (fun _ i hcfg h => h.perform hcfg i)

/-- Settles O21: the invariants bound each register by a parameter that R5 holds below its width. -/
theorem registersStayWithinTheirWidths : Obligations.RegistersStayWithinTheirWidths := by
  intro s hcfg hroll hled
  obtain ⟨-, -, -, -, -, -, hperiod, hblink⟩ := Config.bounds hcfg
  exact ⟨Config.speed_lt hcfg hroll.speed_le,
    hroll.timerOk.trans_le ((Nat.le_add_right _ _).trans hperiod), hled.timerOk.trans_lt hblink⟩

end Sys2Proof.Machine
end

