-- ==== Sys2Proof/Proofs/LedInvariant.lean ====
section
/-! SUPPORT. The LED unit's invariants (10_state.md R28; 43_led.md R154): the blink step and the advance
of the scan keep them, and LED.UPDATE floats the lines before any signature; O19, O20 and O16; what the
lines can carry under them, and O22. -/

namespace Sys2Proof.Machine

/-! ### The blink registers of LED.UPDATE (R151) -/

/-- The blink step reads and writes the two blink registers alone. -/
theorem State.blinkStep_congr {s t : State} (hcfg : t.cfg = s.cfg) (hcount : t.blinkCount = s.blinkCount)
    (htimer : t.blinkTimer = s.blinkTimer) :
    t.blinkStep.blinkCount = s.blinkStep.blinkCount ∧ t.blinkStep.blinkTimer = s.blinkStep.blinkTimer := by
  unfold State.blinkStep
  simp only [hcfg, hcount, htimer]
  split_ifs
  · exact ⟨hcount, htimer⟩
  · exact ⟨rfl, rfl⟩
  · exact ⟨rfl, rfl⟩

/-- Under LED.UPDATE the blink registers take the blink step. -/
theorem State.ledUpdate_blink (s : State) : s.ledUpdate.blinkCount = s.blinkStep.blinkCount ∧
    s.ledUpdate.blinkTimer = s.blinkStep.blinkTimer := by
  let u := s.floatedAt (nextScan s.cfg s.scan)
  let eff := effectivePattern s.cfg s.pattern s.blinkCount
  have hupdate : s.ledUpdate = (u.driveSegment eff).blinkStep := rfl
  rw [hupdate]
  obtain h | ⟨d, -, -, h⟩ := u.driveSegment_cases eff
  · rw [h]
    exact State.blinkStep_congr rfl rfl rfl
  · rw [h]
    exact State.blinkStep_congr rfl rfl rfl

theorem State.blinkStep_le {s : State} (hcfg : s.cfg.wellFormed = true) (hcount : s.blinkCount.toNat ≤ 5)
    (htimer : s.blinkTimer ≤ s.cfg.blinkMax) :
    s.blinkStep.blinkCount.toNat ≤ 5 ∧ s.blinkStep.blinkTimer ≤ s.cfg.blinkMax := by
  by_cases hover : s.blinkCount = 0#3
  · rw [State.blinkStep_of_over hover]
    exact ⟨hcount, htimer⟩
  · by_cases hend : s.blinkTimer = 0
    · rw [State.blinkStep_of_phase_end hcfg hover hend]
      exact ⟨by rw [blinkCount_sub_one_toNat hover]; omega, le_rfl⟩
    · rw [State.blinkStep_of_phase hover hend]
      exact ⟨hcount, (Nat.sub_le _ 1).trans htimer⟩

/-! ### The invariants of the registers and lines -/

theorem LedInvariant.congr {s t : State} (hs : LedInvariant s) (hcfg : t.cfg = s.cfg)
    (h : t.ledRegs = s.ledRegs) : LedInvariant t := by
  obtain ⟨hpattern, hcount, htimer, hscan, hoe, hlvl, -⟩ := State.ledRegs_eq_iff.mp h
  exact ⟨by rw [hpattern]; exact hs.patternOk, by rw [hcount]; exact hs.countOk,
    by rw [htimer, hcfg]; exact hs.timerOk, by rw [hscan, hcfg]; exact hs.scanOk,
    by rw [hoe, hlvl, hcfg, hscan]; exact hs.linesOk⟩

theorem LedInvariant.ledPut {s : State} (hs : LedInvariant s) (f : BitVec 3) :
    LedInvariant (s.ledPut f).2 := by
  rw [State.ledPut_eq]
  refine ⟨?_, hs.countOk, hs.timerOk, hs.scanOk, hs.linesOk⟩
  cases hf : faceLut f with
  | none => exact hs.patternOk
  | some p => exact .inr ⟨f, hf⟩

theorem LedInvariant.ledBlink {s : State} (hs : LedInvariant s) : LedInvariant s.ledBlink :=
  ⟨hs.patternOk, by rw [State.ledBlink_blinkCount]; decide, keep_le _ _, hs.scanOk, hs.linesOk⟩

theorem LedInvariant.ledUnblink {s : State} (hs : LedInvariant s) : LedInvariant s.ledUnblink :=
  ⟨hs.patternOk, Nat.zero_le _, Nat.zero_le _, hs.scanOk, hs.linesOk⟩

theorem nextScan_lt {c : Config} (hcfg : c.wellFormed = true) {k : BitVec 3}
    (hk : k.toNat < c.numElements) : (nextScan c k).toNat < c.numElements := by
  rw [nextScan_toNat hcfg hk]
  exact Nat.mod_lt _ (Nat.zero_lt_of_lt hk)

/-- The lines float, or the signature that LED.UPDATE drives is that of the new scan position. -/
theorem LedInvariant.ledUpdate {s : State} (hs : LedInvariant s) (hcfg : s.cfg.wellFormed = true) :
    LedInvariant s.ledUpdate := by
  have hscan := nextScan_lt hcfg hs.scanOk
  obtain ⟨hcount, htimer⟩ := s.ledUpdate_blink
  obtain ⟨hcountOk, htimerOk⟩ := State.blinkStep_le hcfg hs.countOk hs.timerOk
  rw [← hcount] at hcountOk
  rw [← htimer] at htimerOk
  obtain ⟨c, m, h | ⟨d, hd, h⟩⟩ := State.ledUpdate_cases s
  · rw [h] at hcountOk htimerOk ⊢
    exact ⟨hs.patternOk, hcountOk, htimerOk, hscan, .inl rfl⟩
  · rw [h] at hcountOk htimerOk ⊢
    exact ⟨hs.patternOk, hcountOk, htimerOk, hscan, .inr hd⟩

@[simp] theorem State.ledPut_cfg (s : State) (f : BitVec 3) : (s.ledPut f).2.cfg = s.cfg :=
  congrArg Environment.cfg (s.ledPut_environment f)

@[simp] theorem State.ledUpdate_cfg (s : State) : s.ledUpdate.cfg = s.cfg :=
  congrArg Environment.cfg s.ledUpdate_environment

theorem LedInvariant.perform {s : State} (hs : LedInvariant s) (hcfg : s.cfg.wellFormed = true)
    (i : Instr) : LedInvariant (s.perform i) := by
  refine (State.perform_led_induction (P := fun u => u.cfg.wellFormed = true ∧ LedInvariant u)
    (fun u v henv hleds ⟨hucfg, hu⟩ => ?_) (fun u f ⟨hucfg, hu⟩ => ?_)
    (fun u ⟨hucfg, hu⟩ => ⟨hucfg, hu.ledBlink⟩) (fun u ⟨hucfg, hu⟩ => ⟨hucfg, hu.ledUnblink⟩)
    (fun u ⟨hucfg, hu⟩ => ?_) ⟨hcfg, hs⟩ i).2
  · have hsame : v.cfg = u.cfg := congrArg Environment.cfg henv
    exact ⟨by rw [hsame]; exact hucfg, hu.congr hsame hleds⟩
  · exact ⟨by rw [State.ledPut_cfg]; exact hucfg, hu.ledPut f⟩
  · exact ⟨by rw [State.ledUpdate_cfg]; exact hucfg, hu.ledUpdate hucfg⟩

theorem LedInvariant.performReset {s : State} (hcfg : s.cfg.wellFormed = true) :
    LedInvariant s.performReset := by
  obtain ⟨helements, -⟩ := Config.bounds hcfg
  refine ⟨.inl (by simp), by simp, by simp, ?_, .inl (by simp [Drive.floating])⟩
  rw [State.performReset_scan, State.performReset_cfg]
  rcases helements with h | h <;> rw [h] <;> decide

/-- Settles O19: RESET sets the invariants up, and every operation of the LED unit keeps them. -/
theorem stepKeepsTheLedInvariant : Obligations.StepKeepsTheLedInvariant :=
  fun _ _ => step_keeps (fun _ _ _ _ h => h.congr rfl rfl) (fun _ h => h.congr rfl rfl)
    (fun _ hcfg => .performReset hcfg) (fun _ i hcfg h => h.perform hcfg i)

/-! ### The drive log (R150, R154 (b)) -/

/-- What a log that goes on with a float asks of its first part and of what follows the float. -/
theorem floatsPrecede_append_floating (before : Bool) (l m : List Drive) :
    floatsPrecede before (l ++ Drive.floating :: m) =
      (floatsPrecede before l && floatsPrecede true m) := by
  induction l generalizing before with
  | nil => simp [floatsPrecede]
  | cons d l ih => simp [floatsPrecede, ih, Bool.and_assoc]

theorem DriveLogInvariant.congr {s t : State} (hs : DriveLogInvariant s) (h : t.ledRegs = s.ledRegs) :
    DriveLogInvariant t := by
  obtain ⟨-, -, -, -, hoe, hlvl, hlog⟩ := State.ledRegs_eq_iff.mp h
  exact ⟨by rw [hlog]; exact hs.floatFirst, by rw [hlog, hoe, hlvl]; exact hs.lastDrive⟩

theorem DriveLogInvariant.ledPut {s : State} (hs : DriveLogInvariant s) (f : BitVec 3) :
    DriveLogInvariant (s.ledPut f).2 := by
  rw [State.ledPut_eq]
  exact ⟨hs.floatFirst, hs.lastDrive⟩

/-- LED.UPDATE appends a float, and nothing or one signature after it. -/
theorem DriveLogInvariant.ledUpdate {s : State} (hs : DriveLogInvariant s) :
    DriveLogInvariant s.ledUpdate := by
  have hfloat := hs.floatFirst
  obtain ⟨c, m, h | ⟨d, -, h⟩⟩ := State.ledUpdate_cases s
  · rw [h]
    refine ⟨?_, by simp [Drive.floating]⟩
    simp [floatsPrecede_append_floating, hfloat, floatsPrecede]
  · rw [h]
    refine ⟨?_, by simp⟩
    simp [floatsPrecede_append_floating, hfloat, floatsPrecede]

theorem DriveLogInvariant.perform {s : State} (hs : DriveLogInvariant s) (i : Instr) :
    DriveLogInvariant (s.perform i) :=
  State.perform_led_induction (fun _ _ _ hleds hu => hu.congr hleds) (fun _ f hu => hu.ledPut f)
    (fun _ hu => ⟨hu.floatFirst, hu.lastDrive⟩) (fun _ hu => ⟨hu.floatFirst, hu.lastDrive⟩)
    (fun _ hu => hu.ledUpdate) hs i

theorem DriveLogInvariant.performReset (s : State) : DriveLogInvariant s.performReset :=
  ⟨by simp [floatsPrecede], by simp [Drive.floating]⟩

/-- Settles O20: RESET empties the log, and LED.UPDATE, which alone drives the lines, floats them
first. -/
theorem stepKeepsAFloatBeforeEverySignature : Obligations.StepKeepsAFloatBeforeEverySignature :=
  fun _ _ => step_keeps (fun _ _ _ _ h => h.congr rfl) (fun _ h => h.congr rfl)
    (fun s _ => .performReset s) (fun _ i _ h => h.perform i)

/-! ### The state after power-on (10_state.md R33) -/

theorem State.reset_cfg_wellFormed : State.reset.cfg.wellFormed = true := by
  decide

/-- Settles O16: power-on leaves the registers as RESET does. -/
theorem resetStateMeetsTheInvariants : Obligations.ResetStateMeetsTheInvariants :=
  ⟨State.reset_cfg_wellFormed, (DebouncerInvariant.performReset .reset).congr rfl,
    (RollInvariant.performReset State.reset_cfg_wellFormed).congr rfl rfl,
    (LedInvariant.performReset State.reset_cfg_wellFormed).congr rfl rfl,
    (DriveLogInvariant.performReset .reset).congr rfl⟩

/-! ### What the lines carry (10_state.md R28 (e)) -/

/-- An index that has a signature stands in `SIG`. -/
theorem sig_of_signature {c : Config} {k : BitVec 3} {d : Drive} (h : signature c k = some d) :
    ∃ p, c.sig.toList[k.toNat]? = some p ∧ signatureDrive p = d := by
  rw [signature, ← Vector.getElem?_toList, Option.map_eq_some_iff] at h
  exact h

/-- A signature with two lines names its pair. -/
theorem signatureDrive_inj {p q : SegmentSig} (hp : p.anode ≠ p.cathode) (hq : q.anode ≠ q.cathode)
    (h : signatureDrive p = signatureDrive q) : p = q := by
  have hline : ∀ l, (signatureDrive p).line l = (signatureDrive q).line l := fun l => by rw [h]
  simp only [signatureDrive_line] at hline
  have hanode : p.anode = q.anode := by
    have hl := hline p.anode
    rw [if_pos rfl] at hl
    split_ifs at hl with heq
    exact heq
  have hcathode : p.cathode = q.cathode := by
    have hl := hline p.cathode
    rw [if_neg hp.symm, if_pos rfl, ← hanode, if_neg hp.symm] at hl
    split_ifs at hl with heq
    exact heq
  cases p
  cases q
  exact congr (congrArg SegmentSig.mk hanode) hcathode

/-- Of the scanned indices just one has a given signature. -/
theorem signature_inj {c : Config} (hcfg : c.wellFormed = true) {j k : BitVec 3}
    (hj : j.toNat < c.numElements) (hk : k.toNat < c.numElements) {d : Drive}
    (hjd : signature c j = some d) (hkd : signature c k = some d) : j = k := by
  obtain ⟨p, hp, hpd⟩ := sig_of_signature hjd
  obtain ⟨q, hq, hqd⟩ := sig_of_signature hkd
  have hpq : p = q := signatureDrive_inj (Config.anode_ne_cathode hcfg (List.mem_of_getElem? hp))
    (Config.anode_ne_cathode hcfg (List.mem_of_getElem? hq)) (hpd.trans hqd.symm)
  have htake : ∀ {i : BitVec 3}, i.toNat < c.numElements →
      (c.sig.toList.take c.numElements)[i.toNat]? = c.sig.toList[i.toNat]? := fun hi => by
    rw [List.getElem?_take, if_pos hi]
  have hsame := ((htake hj).trans hp).trans ((congrArg some hpq).trans ((htake hk).trans hq).symm)
  obtain ⟨hlength, -⟩ := List.getElem?_eq_some_iff.mp ((htake hj).trans hp)
  exact BitVec.eq_of_toNat_eq ((List.getElem?_inj hlength (Config.sig_nodup hcfg)).mp hsame)

/-- Settles O22: the scanned segment is the one whose signature is carried; its pair has two different
lines, and of the three lines one is left. -/
theorem linesCarryAtMostOneSegment : Obligations.LinesCarryAtMostOneSegment := by
  intro s hcfg hs
  obtain hfloat | hsig := hs.linesOk
  · exact .inl ⟨congrArg Drive.oe hfloat, congrArg Drive.lvl hfloat⟩
  · right
    refine ⟨⟨s.scan, ⟨hs.scanOk, hsig⟩,
      fun k ⟨hk, hkd⟩ => signature_inj hcfg hk hs.scanOk hkd hsig⟩, ?_⟩
    obtain ⟨p, hp, hpd⟩ := sig_of_signature hsig
    have hne := Config.anode_ne_cathode hcfg (List.mem_of_getElem? hp)
    obtain ⟨l, hla, hlc⟩ : ∃ l : Fin 3, l ≠ p.anode ∧ l ≠ p.cathode := by
      have hthird : ∀ a c : Fin 3, ∃ l, l ≠ a ∧ l ≠ c := by decide
      exact hthird p.anode p.cathode
    obtain ⟨hanode, hcathode, hthird⟩ := signatureDrivesTwoLines p l hne
    rw [← hpd]
    exact ⟨p.anode, p.cathode, l, hne, hla, hlc, hanode, hcathode, hthird hla hlc⟩

end Sys2Proof.Machine
end

