-- ==== Sys2Proof/Proofs/PrngWrites.lean ====
section
/-! SUPPORT. Who writes the PRNG state and how (40_prng.md R87 to R90): a draw can be undone, since the
characteristic polynomial has a constant term; every command but PRNG.SET draws a number of times; the
block that PRNG.SET loads is the one PRNG.GET answers. O29 and O31 to O34. -/

namespace Sys2Proof.Machine

/-! ### A draw is a bijection (R89) -/

/-- The summands of 128 draws but for the state itself, one draw early. -/
def earlierDraws (p : PrngState) : PrngState :=
  drawSum (fun n => drawRelation.getLsbD (1 + n)) 127 p

/-- The state before a draw. -/
def PrngState.retreat (p : PrngState) : PrngState := (PrngState.advance^[127] p).xor (earlierDraws p)

theorem earlierDraws_advance (p : PrngState) : earlierDraws p.advance = (earlierDraws p).advance :=
  drawSum_advance _ 127 p

/-- `drawRelation` has its bit 0 set, so the state itself is among the summands of 128 draws. -/
theorem iterate_advance_128_eq_xor (p : PrngState) :
    PrngState.advance^[128] p = p.xor (earlierDraws p.advance) := by
  have hbit : drawRelation.getLsbD 0 = true := by decide
  have hfirst : drawSum drawRelation.getLsbD 1 p = p := by simp [drawSum, hbit]
  rw [iterate_advance_128, maskedSum_eq_drawSum, drawSum_add _ 1 127, hfirst, Function.iterate_one,
    earlierDraws]

theorem PrngState.advance_retreat (p : PrngState) : p.retreat.advance = p := by
  rw [retreat, advance_xor, ← Function.iterate_succ_apply' advance, iterate_advance_128_eq_xor,
    ← earlierDraws_advance, xor_assoc, xor_self, xor_zero]

theorem PrngState.retreat_advance (p : PrngState) : p.advance.retreat = p := by
  have hcommute : p.advance.retreat = p.retreat.advance := by
    rw [retreat, retreat, advance_xor, earlierDraws_advance, ← Function.iterate_succ_apply,
      ← Function.iterate_succ_apply' advance]
  rw [hcommute, advance_retreat]

theorem PrngState.advance_bijective : Function.Bijective PrngState.advance :=
  Function.bijective_iff_has_inverse.mpr ⟨retreat, retreat_advance, advance_retreat⟩

/-- Settles O31: linearity word by word, and the inverse of a draw. -/
theorem drawIsALinearBijection : Obligations.DrawIsALinearBijection :=
  ⟨PrngState.advance_xor, PrngState.advance_bijective⟩

theorem PrngState.iterate_advance_eq_zero_iff (n : Nat) (p : PrngState) :
    PrngState.advance^[n] p = .zero ↔ p = .zero := by
  have hzero : PrngState.advance^[n] PrngState.zero = .zero :=
    Function.iterate_fixed PrngState.advance_zero n
  constructor
  · intro h
    exact PrngState.advance_bijective.injective.iterate n (h.trans hzero.symm)
  · rintro rfl
    exact hzero

/-! ### The block of a state (20_memory.md R46) -/

theorem PrngState.toBlock_ofBlock (w : Block) : (PrngState.ofBlock w).toBlock = w := by
  have h32 : w.extractLsb' 96 32 ++ w.extractLsb' 64 32 = w.extractLsb' 64 64 :=
    BitVec.extractLsb'_append_extractLsb'_eq_extractLsb' rfl
  have h21 : w.extractLsb' 64 64 ++ w.extractLsb' 32 32 = w.extractLsb' 32 96 :=
    BitVec.extractLsb'_append_extractLsb'_eq_extractLsb' rfl
  have h10 : w.extractLsb' 32 96 ++ w.extractLsb' 0 32 = w.extractLsb' 0 128 :=
    BitVec.extractLsb'_append_extractLsb'_eq_extractLsb' rfl
  rw [PrngState.toBlock, PrngState.ofBlock]
  dsimp only
  rw [h32, h21, h10, BitVec.extractLsb'_eq_self]

theorem PrngState.ofBlock_eq_zero_iff {w : Block} : PrngState.ofBlock w = .zero ↔ w = 0#128 := by
  constructor
  · intro h
    rw [← PrngState.toBlock_ofBlock w, h]
    decide
  · rintro rfl
    decide

/-- Settles O29: PRNG.SET loads the words of the block, PRNG.GET packs them again. -/
theorem setThenGetReturnsTheData : Obligations.SetThenGetReturnsTheData := by
  intro w s
  rw [performAll_cons (exec_prngSet w s), performAll_cons (exec_prngGet _)]
  exact ⟨_, _, rfl, State.respond_resp .., PrngState.toBlock_ofBlock w⟩

/-! ### How commands write the state (R90) -/

/-- What lies between two states of the generator: some number of draws. -/
def PrngState.Reaches (p q : PrngState) : Prop := ∃ n, q = PrngState.advance^[n] p

theorem PrngState.Reaches.refl (p : PrngState) : p.Reaches p := ⟨0, rfl⟩

theorem PrngState.reaches_advance (p : PrngState) : p.Reaches p.advance := ⟨1, rfl⟩

theorem PrngState.Reaches.trans {p q r : PrngState} (hpq : p.Reaches q) (hqr : q.Reaches r) :
    p.Reaches r := by
  obtain ⟨m, rfl⟩ := hpq
  obtain ⟨n, rfl⟩ := hqr
  exact ⟨n + m, (Function.iterate_add_apply _ n m p).symm⟩

theorem State.rollUpdate_reaches (s : State) : s.prng.Reaches s.rollUpdate.2.prng := by
  rw [State.rollUpdate_prng]
  split_ifs
  · exact s.prng.reaches_advance
  · exact .refl _

theorem State.feedEdge_reaches (s : State) : s.prng.Reaches s.feedEdge.prng := by
  rw [State.feedEdge_eq]
  split_ifs
  · exact .refl _
  · exact s.prng.reaches_advance
  · exact .refl _

theorem jumpWith_jumpK_reaches (p : PrngState) : p.Reaches (jumpWith jumpK p) := by
  obtain ⟨n, hn⟩ : ∃ n : Nat, n = 2 ^ 64 := ⟨_, rfl⟩
  exact ⟨n, jumpWith_jumpK_eq_iterate_advance hn p⟩

theorem jumpWith_ljumpK_reaches (p : PrngState) : p.Reaches (jumpWith ljumpK p) := by
  obtain ⟨n, hn⟩ : ∃ n : Nat, n = 2 ^ 96 := ⟨_, rfl⟩
  exact ⟨n, jumpWith_ljumpK_eq_iterate_advance hn p⟩

/-- Every command but PRNG.SET draws some number of times, a jump 2^64 or 2^96 times. -/
theorem State.perform_reaches (s : State) {i : Instr} (hset : ∀ w, i ≠ .prngSet w) :
    s.prng.Reaches (s.perform i).prng := by
  cases i with
  | prngNext => exact s.prng.reaches_advance
  | prngJump => exact jumpWith_jumpK_reaches s.prng
  | prngLjump =>
    dsimp only [State.perform]
    exact jumpWith_ljumpK_reaches s.prng
  | prngSet w => exact absurd rfl (hset w)
  | rollSlow => exact s.prng.reaches_advance
  | rollUpdate => exact s.rollUpdate_reaches
  | ledPut f =>
    rw [State.perform, State.ledPut_prng]
    exact .refl _
  | ledUpdate =>
    rw [State.perform, State.ledUpdate_prng]
    exact .refl _
  | tick x =>
    rw [State.perform, State.tick_prng]
    exact (State.feedEdge_reaches (s.debRead x)).trans (State.rollUpdate_reaches _)
  | _ => exact .refl _

theorem PrngState.output_zero : PrngState.output .zero = 0#32 := by
  decide

/-- Settles O32: no number of draws leaves the all-zero state, whose output is 0. -/
theorem allZeroStateIsAFixedPoint : Obligations.AllZeroStateIsAFixedPoint := by
  intro s hzero
  refine ⟨fun i t h hset => ?_, fun t h => ?_, fun t h => ?_⟩ <;> obtain rfl := eq_of_exec h
  · obtain ⟨n, hn⟩ := s.perform_reaches hset
    rw [State.respond_prng, hn, PrngState.iterate_advance_eq_zero_iff, hzero]
  · refine ⟨_, State.respond_resp .., ?_⟩
    rw [State.dataOf, hzero, PrngState.output_zero]
    rfl
  · rw [State.respond_face, State.perform, State.rollSlow_face, hzero, PrngState.output_zero]
    rfl

/-- Settles O33: draws are injective, and only the all-zero block loads the all-zero state. -/
theorem noOtherCommandMakesTheStateAllZero : Obligations.NoOtherCommandMakesTheStateAllZero := by
  intro i s t h hs hi
  obtain rfl := eq_of_exec h
  rw [State.respond_prng]
  by_cases hset : ∃ w, i = .prngSet w
  · obtain ⟨w, rfl⟩ := hset
    exact fun hzero => hi (congrArg Instr.prngSet (PrngState.ofBlock_eq_zero_iff.mp hzero))
  · obtain ⟨n, hn⟩ := s.perform_reaches (not_exists.mp hset)
    rwa [hn, Ne, PrngState.iterate_advance_eq_zero_iff]

/-- Settles O34: the draws of the drawing commands, and the commands whose registers hold no `s`. -/
theorem onlyTheseCommandsWriteThePrng : Obligations.OnlyTheseCommandsWriteThePrng := by
  intro i s t h
  obtain rfl := eq_of_exec h
  rw [State.respond_prng]
  refine ⟨?_, ?_, fun hwrites => ?_⟩
  · rintro (rfl | rfl) <;> rfl
  · rintro rfl
    exact s.rollUpdate_prng
  · cases i with
    | ledPut f => exact absurd (s.ledPut_prng f) hwrites
    | ledUpdate => exact absurd s.ledUpdate_prng hwrites
    | nop | prngGet | debRead | rollStart | ledBlink | ledUnblink => exact absurd rfl hwrites
    | _ => simp

end Sys2Proof.Machine
end

