-- ==== Sys2Proof/Proofs/SampleStreams.lean ====
section
/-! SUPPORT. Streams of samples (41_debouncer.md R106, R107): the history holds the last eight samples,
so the flag changes only after eight in a row against it; O37, O38 and O39. -/

namespace Sys2Proof.Machine

/-! ### Reads in a row -/

/-- The state after reading the samples in order. -/
def State.reads (s : State) (xs : List Bool) : State :=
  xs.foldl (fun u x => (u.debRead x).respondPlain) s

@[simp] theorem State.reads_nil (s : State) : s.reads [] = s := rfl

theorem State.reads_append_singleton (s : State) (xs : List Bool) (x : Bool) :
    s.reads (xs ++ [x]) = ((s.reads xs).debRead x).respondPlain := by
  simp [State.reads]

theorem performAll_map_debRead (xs : List Bool) (s : State) :
    performAll (xs.map .debRead) s = .next (s.reads xs) := by
  induction xs generalizing s with
  | nil => rfl
  | cons x xs ih => rw [List.map_cons, performAll_cons (exec_debRead x s), ih]; rfl

theorem DebouncerInvariant.reads {s : State} (hs : DebouncerInvariant s) (xs : List Bool) :
    DebouncerInvariant (s.reads xs) := by
  induction xs using List.reverseRecOn with
  | nil => exact hs
  | append_singleton xs x ih =>
    rw [State.reads_append_singleton]
    exact (ih.debRead x).congr rfl

/-! ### The history holds the last samples -/

theorem shiftIn_getLsbD_zero (h : BitVec 8) (x : Bool) : (shiftIn h x).getLsbD 0 = x := by
  simp [shiftIn]

theorem shiftIn_getLsbD_succ (h : BitVec 8) (x : Bool) {i : Nat} (hi : i + 1 < 8) :
    (shiftIn h x).getLsbD (i + 1) = h.getLsbD i := by
  rw [shiftIn, BitVec.getLsbD_or, BitVec.getLsbD_shiftLeft]
  simp [hi]

/-- Bit `i` of the history is the sample `i` reads before the last, or a bit that was there before. -/
theorem State.reads_hist_getLsbD (s : State) (xs : List Bool) {i : Nat} (hi : i < 8) :
    (s.reads xs).hist.getLsbD i = (xs.reverse[i]?).getD (s.hist.getLsbD (i - xs.length)) := by
  induction xs using List.reverseRecOn generalizing i with
  | nil => simp
  | append_singleton xs x ih =>
    rw [State.reads_append_singleton, State.respondPlain_hist, State.debRead_hist]
    cases i with
    | zero =>
      rw [shiftIn_getLsbD_zero]
      simp
    | succ i =>
      rw [shiftIn_getLsbD_succ _ _ hi, ih (by omega)]
      simp

theorem uniformHist_getLsbD (x : Bool) {i : Nat} (hi : i < 8) : (uniformHist x).getLsbD i = x := by
  revert x
  interval_cases i <;> decide

theorem eq_uniformHist {h : BitVec 8} {x : Bool} (hbits : ∀ i < 8, h.getLsbD i = x) :
    h = uniformHist x :=
  BitVec.eq_of_getLsbD_eq fun i hi => (hbits i hi).trans (uniformHist_getLsbD x hi).symm

/-- Eight equal samples fill the history. -/
theorem State.reads_hist_replicate (s : State) (xs : List Bool) (x : Bool) :
    (s.reads (xs ++ List.replicate 8 x)).hist = uniformHist x := by
  refine eq_uniformHist fun i hi => ?_
  have hsample : (xs ++ List.replicate 8 x).reverse[i]? = some x := by
    rw [List.reverse_append, List.reverse_replicate, List.getElem?_append_left (by simpa using hi),
      List.getElem?_replicate, if_pos hi]
  rw [State.reads_hist_getLsbD _ _ hi, hsample, Option.getD_some]

/-- A history turned from one uniform value to the other has taken in eight equal samples. -/
theorem State.replicate_suffix_of_reads_hist {s : State} {xs : List Bool} {d : Bool}
    (hbefore : s.hist = uniformHist d) (hafter : (s.reads xs).hist = uniformHist (!d)) :
    List.replicate 8 (!d) <:+ xs := by
  rw [← List.reverse_prefix, List.reverse_replicate, List.prefix_iff_getElem?]
  intro i hi
  rw [List.length_replicate] at hi
  have hbit := State.reads_hist_getLsbD s xs hi
  rw [hafter, hbefore, uniformHist_getLsbD _ hi, uniformHist_getLsbD _ (by omega)] at hbit
  rw [List.getElem_replicate]
  cases hsample : xs.reverse[i]? with
  | none => cases d <;> simp [hsample] at hbit
  | some x => simpa [hsample] using hbit.symm

/-! ### The flag under a stream -/

theorem State.reads_deb_of_hist {s : State} {xs : List Bool} {x : Bool} (hne : xs ≠ [])
    (h : (s.reads xs).hist = uniformHist x) : (s.reads xs).deb = x := by
  obtain ⟨ys, y, rfl⟩ : ∃ ys y, xs = ys ++ [y] :=
    ⟨_, _, (List.dropLast_append_getLast hne).symm⟩
  rw [State.reads_append_singleton] at h ⊢
  rw [State.respondPlain_deb, State.debRead_deb, ← State.debRead_hist]
  rw [State.respondPlain_hist] at h
  rw [h, hysteresis_uniformHist]

/-- Settles O37: the eight samples fill the history, and the flag follows it. -/
theorem eightEqualSamplesDecideTheFlag : Obligations.EightEqualSamplesDecideTheFlag :=
  fun xs x s => ⟨_, performAll_map_debRead _ s,
    State.reads_deb_of_hist (by simp) (s.reads_hist_replicate xs x)⟩

/-- Without eight samples in a row against it the flag stays. -/
theorem State.reads_deb_of_noise {s : State} {xs : List Bool} {d : Bool} (hhist : s.hist = uniformHist d)
    (hdeb : s.deb = d) (hnoise : ¬ List.replicate 8 (!d) <:+: xs) : (s.reads xs).deb = d := by
  induction xs using List.reverseRecOn with
  | nil => exact hdeb
  | append_singleton xs x ih =>
    have hbefore := ih fun h => hnoise (h.trans (List.prefix_append xs [x]).isInfix)
    by_contra hflip
    have hhist' : (s.reads (xs ++ [x])).hist = uniformHist (!d) := by
      rw [State.reads_append_singleton] at hflip ⊢
      have h := State.debRead_hist_of_deb_ne (s := s.reads xs) (x := x) (by rw [hbefore]; exact hflip)
      rwa [hbefore] at h
    exact hnoise (State.replicate_suffix_of_reads_hist hhist hhist').isInfix

/-- After at least one such read the edge register holds the flag twice. -/
theorem State.reads_edge_of_noise {s : State} {xs : List Bool} {d : Bool} (hs : DebouncerInvariant s)
    (hhist : s.hist = uniformHist d) (hdeb : s.deb = d) (hnoise : ¬ List.replicate 8 (!d) <:+: xs)
    (hne : xs ≠ []) : (s.reads xs).edge = (ButtonState.ofFlags d d).code := by
  have hafter := State.reads_deb_of_noise hhist hdeb hnoise
  obtain ⟨ys, y, rfl⟩ : ∃ ys y, xs = ys ++ [y] :=
    ⟨_, _, (List.dropLast_append_getLast hne).symm⟩
  have hbefore := State.reads_deb_of_noise hhist hdeb fun h =>
    hnoise (h.trans (List.prefix_append ys [y]).isInfix)
  rw [State.reads_append_singleton, State.respondPlain_deb] at hafter
  rw [State.reads_append_singleton, State.respondPlain_edge, (hs.reads ys).debRead_edge, hbefore, hafter]

/-- A steady state meets the debouncer's invariants. -/
theorem debouncerInvariant_of_steady {s : State} {d : Bool} (hhist : s.hist = uniformHist d)
    (hdeb : s.deb = d) (hedge : s.edge = (ButtonState.ofFlags d d).code) : DebouncerInvariant s := by
  cases d with
  | false => exact ⟨by rw [hedge, hdeb]; rfl, fun h => absurd (hhist.symm.trans h) (by decide),
      fun _ => hdeb, fun h => absurd (hedge.symm.trans h) (by decide), fun _ => hhist⟩
  | true => exact ⟨by rw [hedge, hdeb]; rfl, fun _ => hdeb,
      fun h => absurd (hhist.symm.trans h) (by decide), fun _ => hhist,
      fun h => absurd (hedge.symm.trans h) (by decide)⟩

/-- From a steady state such a stream changes neither the flag nor the edge register. -/
theorem State.reads_of_steady {s : State} {xs : List Bool} {d : Bool} (hhist : s.hist = uniformHist d)
    (hdeb : s.deb = d) (hedge : s.edge = (ButtonState.ofFlags d d).code)
    (hnoise : ¬ List.replicate 8 (!d) <:+: xs) :
    (s.reads xs).deb = d ∧ (s.reads xs).edge = (ButtonState.ofFlags d d).code := by
  refine ⟨State.reads_deb_of_noise hhist hdeb hnoise, ?_⟩
  by_cases hne : xs = []
  · rw [hne]
    exact hedge
  · exact State.reads_edge_of_noise (debouncerInvariant_of_steady hhist hdeb hedge) hhist hdeb hnoise hne

/-- Settles O38: both steady states are the steady state of a flag. -/
theorem noiseChangesNeitherFlagNorEdge : Obligations.NoiseChangesNeitherFlagNorEdge :=
  fun xs s =>
    ⟨fun hhist hdeb hedge hnoise => ⟨_, performAll_map_debRead xs s,
      State.reads_of_steady (d := false) hhist hdeb hedge hnoise⟩,
    fun hhist hdeb hedge hnoise => ⟨_, performAll_map_debRead xs s,
      State.reads_of_steady (d := true) hhist hdeb hedge hnoise⟩⟩

/-- Seven samples hold no eight in a row. -/
theorem not_replicate_infix_of_length {xs : List Bool} (h : xs.length ≤ 7) (x : Bool) :
    ¬ List.replicate 8 x <:+: xs := by
  intro hinfix
  have hlength := hinfix.length_le
  rw [List.length_replicate] at hlength
  omega

/-- Settles O39: an edge leaves a uniform history, which seven samples cannot turn. -/
theorem edgesAreAtLeastEightReadsApart : Obligations.EdgesAreAtLeastEightReadsApart := by
  intro xs s hs hone hseven
  have hne : xs ≠ [] := List.ne_nil_of_length_pos hone
  have hflag : ∀ b : ButtonState, s.edge = b.code → s.deb = b.code.getLsbD 0 := fun b h => by
    rw [← hs.edgeIsTagged, h]
  exact ⟨_, performAll_map_debRead xs s,
    fun h => State.reads_edge_of_noise (d := true) hs (hs.downEdge h) (hflag _ h)
      (not_replicate_infix_of_length hseven _) hne,
    fun h => State.reads_edge_of_noise (d := false) hs (hs.upEdge h) (hflag _ h)
      (not_replicate_infix_of_length hseven _) hne⟩

end Sys2Proof.Machine
end

