-- ==== Sys2Proof/Proofs/Slowdown.lean ====
section
/-! SUPPORT. One command many times in a row, by induction on the number of times; the slowdown of the
roll engine (42_roll.md section 5): one off the speed per ROLL.UPDATE, the face following the accumulated
timer; O44 and O45. -/

namespace Sys2Proof.Machine

/-! ### One command many times -/

theorem performAll_append_singleton {is : List Instr} {i : Instr} {s t u : State}
    (h : performAll is s = .next t) (hi : exec i t = .next u) :
    performAll (is ++ [i]) s = .next u := by
  obtain ⟨t', ht, happend⟩ := performAll_append is [i] s
  obtain rfl := Host.Outcome.next.inj (ht.symm.trans h)
  rw [happend, performAll_cons hi, performAll_nil]

/-- A property that holds at the start and that the command carries from one count to the next holds
after any number of times. -/
theorem performAll_replicate_induction {i : Instr} {P : Nat → State → Prop} {s : State} (hzero : P 0 s)
    (hnext : ∀ n t u, P n t → exec i t = .next u → P (n + 1) u) (n : Nat) :
    ∃ t, performAll (List.replicate n i) s = .next t ∧ P n t := by
  induction n with
  | zero => exact ⟨s, rfl, hzero⟩
  | succ n ih =>
    obtain ⟨t, ht, hP⟩ := ih
    obtain ⟨u, hu⟩ := exec_eq_next i t
    rw [List.replicate_succ']
    exact ⟨u, performAll_append_singleton ht hu, hnext n t u hP hu⟩

/-! ### One update of a slowdown -/

@[simp] theorem State.accumulate_speed (s : State) : s.accumulate.2.speed = s.speed := by
  obtain ⟨m, f, h, -⟩ := s.accumulate_frame
  rw [h]

theorem State.accumulate_ne_stop (s : State) : s.accumulate.1 ≠ .stop := by
  obtain ⟨-, -, -, h⟩ := s.accumulate_frame
  exact h

/-- While slowing, and at rest, an update takes 1 off the speed and stops exactly at the last one. -/
theorem State.rollUpdate_of_released {s : State} (hp : s.pressed = false)
    (hkeep : s.speed < 2 ^ s.cfg.speedW) :
    s.rollUpdate.2.speed = s.speed - 1 ∧ (s.rollUpdate.1 = .stop ↔ s.speed = 1) := by
  by_cases hidle : s.speed = 0
  · rw [State.rollUpdate_of_idle hidle]
    simp [hidle]
  · by_cases hlast : s.speed = 1
    · rw [State.rollUpdate_of_last hp hlast]
      simp [hlast]
    · rw [State.rollUpdate_of_slowing hp (by omega) hkeep]
      split
      · exact ⟨State.accumulate_speed _, by simp [State.accumulate_ne_stop, hlast]⟩
      · simp [hlast]

/-- What `n` updates after ROLL.SLOW have made of the speed `v`. -/
structure SlowedFor (c : Config) (v n : Nat) (t : State) : Prop where
  cfg_eq : t.cfg = c
  released : t.pressed = false
  speed_eq : t.speed = v - n

theorem SlowedFor.rollUpdate {c : Config} {v n : Nat} {t u : State} (hv : v < 2 ^ c.speedW)
    (h : SlowedFor c v n t) (hexec : exec .rollUpdate t = .next u) : SlowedFor c v (n + 1) u := by
  obtain rfl := eq_of_exec hexec
  have hkeep : t.speed < 2 ^ t.cfg.speedW := by
    rw [h.speed_eq, h.cfg_eq]
    exact (Nat.sub_le v n).trans_lt hv
  obtain ⟨hspeed, -⟩ := State.rollUpdate_of_released h.released hkeep
  exact ⟨t.rollUpdate_cfg.trans h.cfg_eq, t.rollUpdate_pressed.trans h.released,
    hspeed.trans (by rw [h.speed_eq, Nat.sub_sub])⟩

theorem RollEvent.code_inj {d e : RollEvent} : d.code = e.code ↔ d = e := by
  cases d <;> cases e <;> decide

/-- Settles O44: after `n` updates the speed is `n` less, and the next one stops when it is 1. -/
theorem exactlyOneStopPerSlowdown : Obligations.ExactlyOneStopPerSlowdown := by
  intro s n hcfg
  have hv := Config.rollSpeed_half_lt hcfg
  have hstart : SlowedFor s.cfg (s.cfg.rollSpeed >>> 1) 0 s.rollSlow.respondPlain := by
    rw [State.rollSlow_eq hcfg]
    exact ⟨rfl, rfl, rfl⟩
  obtain ⟨t, ht, hslowed⟩ := performAll_replicate_induction hstart
    (fun n t u h hexec => h.rollUpdate hv hexec) n
  have hkeep : t.speed < 2 ^ t.cfg.speedW := by
    rw [hslowed.speed_eq, hslowed.cfg_eq]
    exact (Nat.sub_le _ n).trans_lt hv
  obtain ⟨-, hstop⟩ := State.rollUpdate_of_released hslowed.released hkeep
  rw [performAll_cons (exec_rollSlow s), List.replicate_succ']
  refine ⟨_, performAll_append_singleton ht (exec_rollUpdate (Prod.mk.eta (p := t.rollUpdate)).symm), ?_⟩
  rw [State.lastEvent_respond rfl, Option.some_inj, RollEvent.code_inj, hstop, hslowed.speed_eq]
  omega

/-! ### The face of a slowdown that does not accumulate -/

theorem State.slowDown_face_of_literal {s : State} (h : s.cfg.slowAccumulates = false) :
    s.slowDown.2.face = s.face := by
  unfold State.slowDown
  dsimp only
  rw [if_pos h]
  split <;> rfl

/-- A released engine that is not at rest slows down. -/
theorem State.rollUpdate_of_moving {s : State} (hp : s.pressed = false) (hspeed : s.speed ≠ 0) :
    s.rollUpdate = s.backgroundDraw.slowDown := by
  simp [State.rollUpdate, hp, hspeed]

/-- Without accumulation an update while slowing, or at rest, leaves the face. -/
theorem State.rollUpdate_face_of_literal {s : State} (hp : s.pressed = false)
    (h : s.cfg.slowAccumulates = false) : s.rollUpdate.2.face = s.face := by
  have hdraw : s.backgroundDraw.face = s.face := by rw [State.backgroundDraw_eq]
  by_cases hidle : s.speed = 0
  · rw [State.rollUpdate_of_idle hidle]
    exact hdraw
  · rw [State.rollUpdate_of_moving hp hidle, State.slowDown_face_of_literal (by simpa using h), hdraw]

/-- `n` updates after ROLL.SLOW the drawn face stands, without accumulation. -/
theorem restingFace_of_literal {s : State} (h : s.cfg.slowAccumulates = false) (n : Nat) :
    ∃ t, performAll (.rollSlow :: List.replicate n .rollUpdate) s = .next t ∧
      t.face.toNat = s.prng.output.toNat % 6 := by
  rw [performAll_cons (exec_rollSlow s)]
  obtain ⟨t, ht, -, -, hface⟩ := performAll_replicate_induction (i := .rollUpdate)
    (s := s.rollSlow.respondPlain)
    (P := fun _ t => t.cfg = s.cfg ∧ t.pressed = false ∧ t.face = s.rollSlow.face) ⟨rfl, rfl, rfl⟩
    (fun _ t u ⟨hcfg, hp, hface⟩ hexec => by
      obtain rfl := eq_of_exec hexec
      exact ⟨t.rollUpdate_cfg.trans hcfg, t.rollUpdate_pressed.trans hp,
        (State.rollUpdate_face_of_literal hp (by rw [hcfg, h])).trans hface⟩) n
  exact ⟨t, ht, by rw [hface, State.rollSlow_face, ofNat_mod_numFaces_toNat]⟩

/-! ### The face of a slowdown with the default parameters -/

/-- What the first `n` updates of a slowdown from the speed 128 accumulate, at 16 to the step. -/
def slowdownSum : Nat → Nat
  | 0 => 0
  | n + 1 => slowdownSum n + (127 - n) / 16

/-- The state after `n` updates of a slowdown with the defaults: the timer and the face count the wraps
of all that was accumulated on top of the first timer `m`, from the drawn face `f`. -/
structure DefaultSlowdown (f m n : Nat) (t : State) : Prop where
  cfg_eq : t.cfg = defaultConfig
  released : t.pressed = false
  speed_eq : t.speed = 128 - n
  timer_eq : t.timer = (m + slowdownSum n) % 64
  face_eq : t.face.toNat = (f + (m + slowdownSum n) / 64) % 6

/-- One accumulation with the defaults, the timer and the face given by a running total. -/
theorem State.accumulate_of_total {s : State} {f total : Nat} (hcfg : s.cfg = defaultConfig)
    (hspeed : s.speed < 256) (htimer : s.timer = total % 64)
    (hface : s.face.toNat = (f + total / 64) % 6) :
    s.accumulate.2.timer = (total + s.speed / 16) % 64 ∧
      s.accumulate.2.face.toNat = (f + (total + s.speed / 16) / 64) % 6 := by
  have hprec : 2 ^ s.cfg.speedPrec = 16 := by rw [hcfg]; rfl
  have hperiod : s.cfg.rollPeriod = 64 := by rw [hcfg]; rfl
  have hwidth : 2 ^ s.cfg.timerW = 65536 := by rw [hcfg]; rfl
  by_cases hlt : s.timer + s.speed / 16 < 64
  · rw [State.accumulate_of_lt (by rw [hprec]) (by omega) (by omega)]
    dsimp only
    omega
  · rw [State.accumulate_of_ge (by rw [hprec]) (by omega) (by omega)]
    dsimp only
    rw [ofNat_mod_numFaces_toNat, hperiod]
    omega

theorem DefaultSlowdown.rollUpdate {f m n : Nat} {t : State} (h : DefaultSlowdown f m n t)
    (hn : n < 127) : DefaultSlowdown f m (n + 1) t.rollUpdate.2 := by
  have hspeed := h.speed_eq
  have hkeep : t.speed < 2 ^ t.cfg.speedW := by
    have hwidth : 2 ^ t.cfg.speedW = 65536 := by rw [h.cfg_eq]; rfl
    omega
  have haccumulates : t.cfg.slowAccumulates = true := by rw [h.cfg_eq]; rfl
  obtain ⟨hslower, -⟩ := State.rollUpdate_of_released h.released hkeep
  have hupdate := State.rollUpdate_of_slowing h.released (by omega) hkeep
  rw [if_pos haccumulates, State.backgroundDraw_eq] at hupdate
  obtain ⟨htimer, hface⟩ := State.accumulate_of_total
    (s := { t with prng := _, speed := t.speed - 1 }) (f := f) h.cfg_eq (by dsimp only; omega) h.timer_eq
    h.face_eq
  rw [← hupdate] at htimer hface
  have htotal : m + slowdownSum n + (t.speed - 1) / 16 = m + slowdownSum (n + 1) := by
    rw [hspeed, slowdownSum, Nat.sub_right_comm, Nat.add_assoc]
  exact ⟨t.rollUpdate_cfg.trans h.cfg_eq, t.rollUpdate_pressed.trans h.released, by omega,
    by rw [htimer, htotal], by rw [hface, htotal]⟩

theorem slowdownSum_127 : slowdownSum 127 = 448 := by
  decide +kernel

/-- With the defaults the 127 accumulating updates turn the timer seven times, and the last update
stops. -/
theorem restingFace_of_default {s : State} (hcfg : s.cfg = defaultConfig) (htimer : s.timer < 64) :
    ∃ t, performAll (.rollSlow :: List.replicate 128 .rollUpdate) s = .next t ∧
      t.lastEvent = some RollEvent.stop.code ∧ t.face.toNat = (s.prng.output.toNat + 7) % 6 := by
  have hlegal : s.cfg.wellFormed = true := by rw [hcfg]; decide
  let f := s.prng.output.toNat
  have hstart : DefaultSlowdown f s.timer 0 s.rollSlow.respondPlain := by
    rw [State.rollSlow_eq hlegal]
    refine ⟨hcfg, rfl, by rw [State.respondPlain_speed, hcfg]; rfl, ?_, ?_⟩
    · exact (Nat.mod_eq_of_lt htimer).symm
    · rw [State.respondPlain_face, ofNat_mod_numFaces_toNat, slowdownSum, Nat.add_zero,
        Nat.div_eq_of_lt htimer, Nat.add_zero]
  obtain ⟨t, ht, hslowed⟩ := performAll_replicate_induction (i := .rollUpdate)
    (P := fun n t => n ≤ 127 → DefaultSlowdown f s.timer n t) (fun _ => hstart)
    (fun n t u h hexec hn => by
      obtain rfl := eq_of_exec hexec
      obtain ⟨hcfg', hp, hspeed, htimer', hface⟩ := (h (by omega)).rollUpdate (by omega)
      exact ⟨hcfg', hp, hspeed, htimer', hface⟩) 127
  obtain ⟨-, hp, hspeed, -, hface⟩ := hslowed le_rfl
  have hlast := State.rollUpdate_of_last hp hspeed
  rw [performAll_cons (exec_rollSlow s), List.replicate_succ']
  refine ⟨_, performAll_append_singleton ht (exec_rollUpdate hlast), rfl, ?_⟩
  have hkept : t.backgroundDraw.face = t.face := by rw [State.backgroundDraw_eq]
  rw [State.respond_face, hkept, hface, slowdownSum_127]
  omega

/-- Settles O45: the two configurations of the statement. -/
theorem restingFaceFollowsTheDraw : Obligations.RestingFaceFollowsTheDraw :=
  ⟨fun _ hcfg htimer => restingFace_of_default hcfg htimer,
    fun _ n _ hliteral => restingFace_of_literal hliteral n⟩

end Sys2Proof.Machine
end

