-- ==== Sys2Proof/Proofs/LedSequences.lean ====
section
/-! SUPPORT. LED.UPDATE many times in a row (43_led.md section 4): the scan position after `n` of them and
O51, the blink count after `n` of them and O52. -/

namespace Sys2Proof.Machine

/-! ### The scan -/

theorem State.ledUpdate_scan (s : State) : s.ledUpdate.scan = nextScan s.cfg s.scan := by
  obtain ⟨oe, lvl, log, c, m, h⟩ := s.ledUpdate_frame
  rw [h]

/-- After `n` updates the scan is `n` places further round. -/
theorem performAll_ledUpdate_scan {s : State} (hcfg : s.cfg.wellFormed = true)
    (hscan : s.scan.toNat < s.cfg.numElements) (n : Nat) :
    ∃ t, performAll (List.replicate n .ledUpdate) s = .next t ∧
      t.scan.toNat = (s.scan.toNat + n) % s.cfg.numElements := by
  have hpos : 0 < s.cfg.numElements := Nat.zero_lt_of_lt hscan
  obtain ⟨t, ht, -, hplace⟩ := performAll_replicate_induction (i := .ledUpdate) (s := s)
    (P := fun n t => t.cfg = s.cfg ∧ t.scan.toNat = (s.scan.toNat + n) % s.cfg.numElements)
    ⟨rfl, (Nat.mod_eq_of_lt hscan).symm⟩
    (fun n t u ⟨hsame, hplace⟩ hexec => by
      obtain rfl := eq_of_exec hexec
      have hlt : t.scan.toNat < t.cfg.numElements := by
        rw [hsame, hplace]
        exact Nat.mod_lt _ hpos
      refine ⟨by rw [State.respond_cfg, State.perform_cfg, hsame], ?_⟩
      rw [State.respond_scan, State.perform, State.ledUpdate_scan,
        nextScan_toNat (by rw [hsame, hcfg]) hlt, hsame, hplace, Nat.mod_add_mod, Nat.add_assoc]) n
  exact ⟨t, ht, hplace⟩

/-- Just one of the places 1 to `m` further round `m` places is a given one. -/
theorem existsUnique_place {m a k : Nat} (hm : m = 5 ∨ m = 6) (ha : a < m) (hk : k < m) :
    ∃! j, j < m ∧ (a + (j + 1)) % m = k := by
  refine ⟨(k + 2 * m - a - 1) % m, ?_, fun j hj => ?_⟩
  · rcases hm with rfl | rfl <;> omega
  · rcases hm with rfl | rfl <;> omega

/-- Settles O51: the place after `j + 1` updates, and the one `j` that reaches the given place. -/
theorem oneScanVisitsEverySegmentOnce : Obligations.OneScanVisitsEverySegmentOnce := by
  intro s k hcfg hscan hk
  obtain ⟨helements, -⟩ := Config.bounds hcfg
  have hreach : ∀ j, (∃ t, performAll (List.replicate (j + 1) .ledUpdate) s = .next t ∧ t.scan = k) ↔
      (s.scan.toNat + (j + 1)) % s.cfg.numElements = k.toNat := fun j => by
    obtain ⟨t, ht, hplace⟩ := performAll_ledUpdate_scan hcfg hscan (j + 1)
    rw [← hplace]
    constructor
    · rintro ⟨t', ht', rfl⟩
      rw [Host.Outcome.next.inj (ht.symm.trans ht')]
    · exact fun h => ⟨t, ht, BitVec.eq_of_toNat_eq h⟩
  simp only [hreach]
  exact existsUnique_place helements hscan hk

/-! ### The blink -/

/-- `n` updates after LED.BLINK: the count has gone down once per phase of `m + 1` updates, and while it
runs the timer counts the updates of the phase down from `m`. -/
structure BlinkedFor (c : Config) (n : Nat) (t : State) : Prop where
  cfg_eq : t.cfg = c
  count_eq : t.blinkCount.toNat = 5 - n / (c.blinkMax + 1)
  timer_eq : n / (c.blinkMax + 1) < 5 → t.blinkTimer = c.blinkMax - n % (c.blinkMax + 1)

/-- Within a phase one update more is in the same phase; at its end it begins the next one. -/
theorem phase_succ (m n : Nat) :
    (n % (m + 1) < m ∧ (n + 1) / (m + 1) = n / (m + 1) ∧ (n + 1) % (m + 1) = n % (m + 1) + 1) ∨
      (n % (m + 1) = m ∧ (n + 1) / (m + 1) = n / (m + 1) + 1 ∧ (n + 1) % (m + 1) = 0) := by
  have hlt : n % (m + 1) < m + 1 := Nat.mod_lt n (Nat.succ_pos m)
  by_cases hend : n % (m + 1) = m
  · right
    have hdvd : m + 1 ∣ n + 1 := by
      rw [Nat.dvd_iff_mod_eq_zero, Nat.add_mod, hend]
      simp
    exact ⟨hend, Nat.succ_div_of_dvd hdvd, Nat.mod_eq_zero_of_dvd hdvd⟩
  · left
    have hone : 1 % (m + 1) = 1 := Nat.mod_eq_of_lt (by omega)
    have hmod : (n + 1) % (m + 1) = n % (m + 1) + 1 := by
      rw [Nat.add_mod_of_add_mod_lt (by omega), hone]
    have hinside : ¬ m + 1 ∣ n + 1 := fun hdvd => by
      rw [Nat.mod_eq_zero_of_dvd hdvd] at hmod
      omega
    exact ⟨by omega, Nat.succ_div_of_not_dvd hinside, hmod⟩

theorem BlinkedFor.blinkStep {c : Config} (hcfg : c.wellFormed = true) {n : Nat} {t : State}
    (h : BlinkedFor c n t) : BlinkedFor c (n + 1) t.blinkStep := by
  obtain ⟨rfl, hcount, htimer⟩ := h
  by_cases hover : t.blinkCount = 0#3
  · have hdone : 5 ≤ n / (t.cfg.blinkMax + 1) := by
      rw [hover] at hcount
      simp at hcount
      omega
    have hstill : 5 ≤ (n + 1) / (t.cfg.blinkMax + 1) := hdone.trans (Nat.div_le_div_right (Nat.le_succ n))
    rw [State.blinkStep_of_over hover]
    exact ⟨rfl, by omega, by omega⟩
  · have hrunning : n / (t.cfg.blinkMax + 1) < 5 := by
      have hpos : t.blinkCount.toNat ≠ 0 := fun h => hover (BitVec.eq_of_toNat_eq h)
      omega
    have htimer := htimer hrunning
    obtain ⟨hin, hdiv, hmod⟩ | ⟨hend, hdiv, hmod⟩ := phase_succ t.cfg.blinkMax n
    · rw [State.blinkStep_of_phase hover (by omega)]
      exact ⟨rfl, by rw [hdiv]; exact hcount, fun _ => by rw [hmod, htimer]; dsimp only; omega⟩
    · rw [State.blinkStep_of_phase_end hcfg hover (by omega)]
      refine ⟨rfl, ?_, fun _ => by rw [hmod]; rfl⟩
      rw [hdiv, blinkCount_sub_one_toNat hover, hcount]
      omega

theorem BlinkedFor.ledUpdate {c : Config} (hcfg : c.wellFormed = true) {n : Nat} {t : State}
    (h : BlinkedFor c n t) : BlinkedFor c (n + 1) t.ledUpdate := by
  obtain ⟨-, hcount, htimer⟩ := h.blinkStep hcfg
  obtain ⟨hcount', htimer'⟩ := t.ledUpdate_blink
  exact ⟨t.ledUpdate_cfg.trans h.cfg_eq, by rw [hcount', hcount], by rw [htimer']; exact htimer⟩

theorem BlinkedFor.respond {c : Config} {n : Nat} {t : State} (h : BlinkedFor c n t) (ill : Bool)
    (e : RollEvent) (w : Block) : BlinkedFor c n (t.respond ill e w) :=
  ⟨h.cfg_eq, h.count_eq, h.timer_eq⟩

/-- Settles O52: LED.BLINK starts the first phase, and every LED.UPDATE takes one blink step. -/
theorem blinkRunsFivePhasesAndStops : Obligations.BlinkRunsFivePhasesAndStops := by
  intro s n hcfg
  have hstart : BlinkedFor s.cfg 0 s.ledBlink.respondPlain := by
    rw [State.ledBlink_eq hcfg]
    exact ⟨rfl, by simp, fun _ => by simp⟩
  obtain ⟨t, ht, hblinked⟩ := performAll_replicate_induction (i := .ledUpdate) hstart
    (fun n t u (h : BlinkedFor s.cfg n t) hexec => by
      obtain rfl := eq_of_exec hexec
      exact (h.ledUpdate hcfg).respond ..) n
  exact ⟨t, (performAll_cons (exec_ledBlink s)).trans ht, hblinked.count_eq⟩

end Sys2Proof.Machine
end

