-- ==== Sys2Proof/Proofs/TickUnits.lean ====
section
/-! SUPPORT. What TICK keeps between the units (44_tick.md R179, R180): the flag before and after its read
decides the roll command it calls, the engine is pressed as the button is, the pattern is the face's;
O55 and O56. -/

namespace Sys2Proof.Machine

/-! ### The roll command that the two flags select (R177 (a)) -/

theorem State.feedEdge_of_press {s : State} (h : s.edge = (ButtonState.ofFlags false true).code) :
    s.feedEdge = s.rollStart := by
  rw [State.feedEdge_eq, h]
  rfl

theorem State.feedEdge_of_release {s : State} (h : s.edge = (ButtonState.ofFlags true false).code) :
    s.feedEdge = s.rollSlow := by
  rw [State.feedEdge_eq, h]
  rfl

theorem State.feedEdge_of_steady {s : State} {d : Bool}
    (h : s.edge = (ButtonState.ofFlags d d).code) : s.feedEdge = s := by
  rw [State.feedEdge_eq, h]
  cases d <;> rfl

/-- An engine pressed as the flag was is then pressed as the flag is. -/
theorem State.feedEdge_pressed {s : State} {p c : Bool} (h : s.edge = (ButtonState.ofFlags p c).code)
    (hp : s.pressed = p) : s.feedEdge.pressed = c := by
  cases p <;> cases c
  case false.true => rw [State.feedEdge_of_press h, State.rollStart_pressed]
  case true.false => rw [State.feedEdge_of_release h, State.rollSlow_pressed]
  all_goals rw [State.feedEdge_of_steady h, hp]

/-! ### The registers that TICK leaves -/

theorem exec_tick_respond (x : Bool) (s : State) :
    exec (.tick x) s = .next ((s.tick x).2.respond false (s.tick x).1 0#128) :=
  exec_eq (.tick x) s

theorem State.tick_deb (s : State) (x : Bool) : (s.tick x).2.deb = (s.debRead x).deb := by
  obtain ⟨-, hdeb, -⟩ := State.debouncerRegs_eq_iff.mp (s.tick_debouncerRegs x)
  exact hdeb

theorem State.tick_pressed (s : State) (x : Bool) :
    (s.tick x).2.pressed = (s.debRead x).feedEdge.pressed := by
  obtain ⟨hpressed, -⟩ := State.rollRegs_eq_iff.mp (s.tick_rollRegs x)
  rw [hpressed, State.rollUpdate_pressed]

@[simp] theorem State.ledUpdate_pattern (s : State) : s.ledUpdate.pattern = s.pattern := by
  obtain ⟨oe, lvl, log, c, m, h⟩ := s.ledUpdate_frame
  rw [h]

/-- The pattern that TICK shows is that of its face, where the table holds one. -/
theorem State.tick_pattern {s : State} {x : Bool} {p : BitVec 6}
    (h : faceLut (s.tick x).2.face = some p) : (s.tick x).2.pattern = p := by
  rw [State.tick_face] at h
  simp [State.tick_eq, State.ledPut_eq, h]

/-- After a TICK the table holds the pattern of the face, and it is shown. -/
theorem RollInvariant.faceLut_tick {s : State} (hs : RollInvariant s) (hcfg : s.cfg.wellFormed = true)
    (x : Bool) : faceLut (s.tick x).2.face = some (s.tick x).2.pattern := by
  have hface := (hs.tick hcfg x).faceOk
  rw [← State.tick_face] at hface
  obtain ⟨p, hp⟩ := Option.isSome_iff_exists.mp ((faceLut_isSome _).trans (decide_eq_true hface))
  rw [hp, State.tick_pattern hp]

/-! ### The roll state that a TICK finds (10_state.md R22) -/

theorem RollInvariant.rollMode_of_released {s : State} (hs : RollInvariant s) (hp : s.pressed = false) :
    s.rollMode = some .idle ∨ s.rollMode = some .slowing := by
  by_cases hspeed : s.speed = 0
  · exact .inl (State.rollMode_eq_idle_iff.mpr ⟨hp, hspeed⟩)
  · exact .inr (State.rollMode_eq_slowing_iff.mpr ⟨hp, hspeed, hs.releasedOk hp⟩)

theorem RollInvariant.rollMode_of_pressed {s : State} (hs : RollInvariant s) (hp : s.pressed = true) :
    s.rollMode = some .rolling :=
  State.rollMode_eq_rolling_iff.mpr ⟨hp, hs.pressedOk hp⟩

/-- Settles O55: the flag before the read is `pressed`, the flag after it is what `pressed` becomes. -/
theorem tickKeepsRollAndButtonTogether : Obligations.TickKeepsRollAndButtonTogether := by
  intro x s hcfg hdebouncer hroll hpressed
  have hedge := hdebouncer.debRead_edge x
  refine ⟨_, exec_tick_respond x s, ?_⟩
  rw [State.respond_pressed, State.respond_deb, State.respond_face, State.respond_pattern,
    State.respond_edge, State.tick_edge, hedge, ButtonState.code_inj, ButtonState.code_inj,
    ButtonState.ofFlags_eq_downEdge_iff, ButtonState.ofFlags_eq_upEdge_iff]
  refine ⟨?_, hroll.faceLut_tick hcfg x, fun ⟨hold, _⟩ => ?_, fun ⟨hold, _⟩ => ?_⟩
  · rw [State.tick_pressed, State.tick_deb]
    exact State.feedEdge_pressed hedge hpressed
  · exact hroll.rollMode_of_released (hpressed.trans hold)
  · exact hroll.rollMode_of_pressed (hpressed.trans hold)

/-! ### Draws per TICK (R180) -/

/-- An update of a released engine draws once. -/
theorem State.rollUpdate_prng_of_released {s : State} (hp : s.pressed = false) :
    s.rollUpdate.2.prng = s.prng.advance := by
  rw [State.rollUpdate_prng, if_pos (.inl hp)]

/-- An update of a pressed engine draws once if the configuration says so. -/
theorem State.rollUpdate_prng_of_pressed {s : State} (hp : s.pressed = true) : s.rollUpdate.2.prng =
    PrngState.advance^[if s.cfg.drawWhenPressed then 1 else 0] s.prng := by
  rw [State.rollUpdate_prng, hp]
  cases s.cfg.drawWhenPressed <;> rfl

/-- Settles O56: by the flags before and after the read, the draw of ROLL.SLOW and that of ROLL.UPDATE. -/
theorem tickDrawsByButtonState : Obligations.TickDrawsByButtonState := by
  intro x s hdebouncer hpressed
  have hedge := hdebouncer.debRead_edge x
  refine ⟨_, exec_tick_respond x s, ?_⟩
  rw [State.respond_prng, State.respond_edge, State.tick_prng, State.tick_edge, hedge,
    ButtonState.ofCode_code]
  have hread : (s.debRead x).pressed = s.deb := hpressed
  generalize (s.debRead x).deb = new at hedge ⊢
  generalize s.deb = old at hedge hread ⊢
  cases old <;> cases new
  case false.false =>
    rw [State.feedEdge_of_steady hedge, State.rollUpdate_prng_of_released hread]
    rfl
  case false.true =>
    rw [State.feedEdge_of_press hedge, State.rollUpdate_prng_of_pressed (State.rollStart_pressed _)]
    rfl
  case true.false =>
    rw [State.feedEdge_of_release hedge, State.rollUpdate_prng_of_released (State.rollSlow_pressed _)]
    rfl
  case true.true =>
    rw [State.feedEdge_of_steady hedge, State.rollUpdate_prng_of_pressed hread]
    rfl

end Sys2Proof.Machine
end

