-- ==== Sys2Proof/Proofs/PrngIndependence.lean ====
section
/-! SUPPORT. What does not depend on the PRNG state (70_reset_and_hazards.md R212): two machines that
agree but for `s`, and on what is shown only as long as no face is drawn, still agree after every
command; O57. The commands that may be repeated (20_memory.md section 3); O58. -/

namespace Sys2Proof.Machine

theorem State.driveSegment_frame (s : State) (eff : BitVec 6) : ∃ oe lvl log,
    s.driveSegment eff = { s with lineOe := oe, lineLvl := lvl, driveLog := log } := by
  obtain hdark | ⟨d, -, -, hlit⟩ := s.driveSegment_cases eff
  · exact ⟨s.lineOe, s.lineLvl, s.driveLog, hdark⟩
  · exact ⟨d.oe, d.lvl, s.driveLog ++ [d], hlit⟩

/-! ### Machines that agree but for the PRNG state -/

/-- The two states agree on everything that no draw reaches and, where `shown` holds, on what a drawn
face reaches: the face, the pattern, the lines and the drive log. -/
structure AgreeButPrng (shown : Prop) (s t : State) : Prop where
  cfg : t.cfg = s.cfg
  hist : t.hist = s.hist
  deb : t.deb = s.deb
  edge : t.edge = s.edge
  pressed : t.pressed = s.pressed
  speed : t.speed = s.speed
  timer : t.timer = s.timer
  blinkCount : t.blinkCount = s.blinkCount
  blinkTimer : t.blinkTimer = s.blinkTimer
  scan : t.scan = s.scan
  face : shown → t.face = s.face
  pattern : shown → t.pattern = s.pattern
  lineOe : shown → t.lineOe = s.lineOe
  lineLvl : shown → t.lineLvl = s.lineLvl
  driveLog : shown → t.driveLog = s.driveLog

theorem agreeButPrng_withPrng (shown : Prop) (s : State) (q : PrngState) :
    AgreeButPrng shown s { s with prng := q } := by
  constructor <;> intros <;> rfl

namespace AgreeButPrng

variable {shown : Prop} {s t : State}

theorem withPrng (h : AgreeButPrng shown s t) (p q : PrngState) :
    AgreeButPrng shown { s with prng := p } { t with prng := q } :=
  { h with }

theorem debRead (h : AgreeButPrng shown s t) (x : Bool) :
    AgreeButPrng shown (s.debRead x) (t.debRead x) :=
  { h with
    hist := by rw [State.debRead_hist, State.debRead_hist, h.hist]
    deb := by rw [State.debRead_deb, State.debRead_deb, h.hist, h.deb]
    edge := by rw [State.debRead_edge, State.debRead_edge, h.hist, h.deb, h.edge] }

/-! ### The roll engine -/

theorem rollStart (h : AgreeButPrng shown s t) : AgreeButPrng shown s.rollStart t.rollStart :=
  { h with
    pressed := rfl
    speed := by rw [State.rollStart_speed, State.rollStart_speed, h.cfg] }

/-- ROLL.SLOW shows a drawn face. -/
theorem rollSlow (h : AgreeButPrng shown s t) (hdrawn : ¬ shown) :
    AgreeButPrng shown s.rollSlow t.rollSlow :=
  { h with
    pressed := rfl
    speed := by rw [State.rollSlow_speed, State.rollSlow_speed, h.cfg]
    face := fun hshown => absurd hshown hdrawn }

theorem backgroundDraw (h : AgreeButPrng shown s t) :
    AgreeButPrng shown s.backgroundDraw t.backgroundDraw := by
  rw [State.backgroundDraw_eq, State.backgroundDraw_eq]
  exact h.withPrng _ _

theorem accumulate (h : AgreeButPrng shown s t) :
    t.accumulate.1 = s.accumulate.1 ∧ AgreeButPrng shown s.accumulate.2 t.accumulate.2 := by
  unfold State.accumulate
  dsimp only
  rw [h.cfg, h.timer, h.speed]
  split
  · exact ⟨rfl, { h with cfg := rfl, speed := rfl, timer := rfl, face := fun hs => by rw [h.face hs] }⟩
  · exact ⟨rfl, { h with cfg := rfl, speed := rfl, timer := rfl }⟩

theorem slower (h : AgreeButPrng shown s t) : AgreeButPrng shown
    { s with speed := keep s.cfg.speedW (s.speed - 1) }
    { t with speed := keep t.cfg.speedW (t.speed - 1) } :=
  { h with speed := by rw [h.cfg, h.speed] }

theorem slowDown (h : AgreeButPrng shown s t) :
    t.slowDown.1 = s.slowDown.1 ∧ AgreeButPrng shown s.slowDown.2 t.slowDown.2 := by
  have hslower := h.slower
  have hlast : keep t.cfg.speedW (t.speed - 1) = 0 ↔ keep s.cfg.speedW (s.speed - 1) = 0 := by
    rw [h.cfg, h.speed]
  have hliteral : t.cfg.slowAccumulates = false ↔ s.cfg.slowAccumulates = false := by rw [h.cfg]
  unfold State.slowDown
  dsimp only
  simp only [hlast, hliteral]
  split_ifs
  · exact ⟨rfl, hslower⟩
  · exact ⟨rfl, hslower⟩
  · exact hslower.accumulate

theorem rollUpdate (h : AgreeButPrng shown s t) :
    t.rollUpdate.1 = s.rollUpdate.1 ∧ AgreeButPrng shown s.rollUpdate.2 t.rollUpdate.2 := by
  have hdraw := h.backgroundDraw
  have hidle : t.backgroundDraw.speed = 0 ↔ s.backgroundDraw.speed = 0 := by rw [hdraw.speed]
  have hreleased : t.backgroundDraw.pressed = false ↔ s.backgroundDraw.pressed = false := by
    rw [hdraw.pressed]
  unfold State.rollUpdate
  dsimp only
  simp only [hidle, hreleased]
  split_ifs
  · exact ⟨rfl, { hdraw with timer := rfl }⟩
  · exact hdraw.slowDown
  · exact hdraw.accumulate

/-! ### The LED unit -/

theorem ledPut (h : AgreeButPrng shown s t) {f g : BitVec 3} (hface : shown → g = f) :
    AgreeButPrng shown (s.ledPut f).2 (t.ledPut g).2 := by
  rw [State.ledPut_eq, State.ledPut_eq]
  exact { h with pattern := fun hs => by rw [hface hs, h.pattern hs] }

theorem ledBlink (h : AgreeButPrng shown s t) : AgreeButPrng shown s.ledBlink t.ledBlink :=
  { h with
    blinkCount := rfl
    blinkTimer := by rw [State.ledBlink_blinkTimer, State.ledBlink_blinkTimer, h.cfg] }

theorem ledUnblink (h : AgreeButPrng shown s t) : AgreeButPrng shown s.ledUnblink t.ledUnblink :=
  { h with blinkCount := rfl, blinkTimer := rfl }

theorem emit (h : AgreeButPrng shown s t) (d : Drive) : AgreeButPrng shown (s.emit d) (t.emit d) :=
  { h with
    lineOe := fun _ => rfl
    lineLvl := fun _ => rfl
    driveLog := fun hs => by rw [State.emit_driveLog, State.emit_driveLog, h.driveLog hs] }

/-- Different patterns may light different segments, but reach the lines and the log alone. -/
theorem driveSegment (h : AgreeButPrng shown s t) {d e : BitVec 6} (heff : shown → e = d) :
    AgreeButPrng shown (s.driveSegment d) (t.driveSegment e) := by
  by_cases hshown : shown
  · unfold State.driveSegment
    rw [h.cfg, h.scan, heff hshown]
    cases signature s.cfg s.scan with
    | none => exact h
    | some sig =>
      dsimp only
      split
      · exact h.emit sig
      · exact h
  · obtain ⟨oe, lvl, log, hs⟩ := s.driveSegment_frame d
    obtain ⟨oe', lvl', log', ht⟩ := t.driveSegment_frame e
    rw [hs, ht]
    exact { h with
      lineOe := fun hs => absurd hs hshown
      lineLvl := fun hs => absurd hs hshown
      driveLog := fun hs => absurd hs hshown }

theorem blinkStep (h : AgreeButPrng shown s t) : AgreeButPrng shown s.blinkStep t.blinkStep := by
  have hover : t.blinkCount = 0#3 ↔ s.blinkCount = 0#3 := by rw [h.blinkCount]
  have hend : t.blinkTimer = 0 ↔ s.blinkTimer = 0 := by rw [h.blinkTimer]
  unfold State.blinkStep
  simp only [hover, hend]
  split_ifs
  · exact h
  · exact { h with blinkTimer := by rw [h.cfg], blinkCount := by rw [h.blinkCount] }
  · exact { h with blinkTimer := by rw [h.blinkTimer] }

theorem ledUpdate (h : AgreeButPrng shown s t) : AgreeButPrng shown s.ledUpdate t.ledUpdate := by
  have hscan : AgreeButPrng shown { s with scan := nextScan s.cfg s.scan }
      { t with scan := nextScan t.cfg t.scan } := { h with scan := by rw [h.cfg, h.scan] }
  have heff : shown → effectivePattern t.cfg t.pattern t.blinkCount =
      effectivePattern s.cfg s.pattern s.blinkCount := fun hs => by
    rw [h.cfg, h.pattern hs, h.blinkCount]
  exact ((hscan.emit .floating).driveSegment heff).blinkStep

/-! ### TICK and the commands -/

/-- The edge is fed to both engines alike; an UP_EDGE shows a drawn face. -/
theorem feedEdge (h : AgreeButPrng shown s t) (hdrawn : shown → s.edge ≠ ButtonState.upEdge.code) :
    AgreeButPrng shown s.feedEdge t.feedEdge := by
  rw [State.feedEdge_eq, State.feedEdge_eq, h.edge]
  split_ifs with hpress hrelease
  · exact h.rollStart
  · exact h.rollSlow fun hs => hdrawn hs hrelease
  · exact h

theorem feedEvent (h : AgreeButPrng shown s t) (e : RollEvent) :
    AgreeButPrng shown (s.feedEvent e) (t.feedEvent e) := by
  cases e with
  | stop => exact h.ledBlink
  | roll => exact h
  | noEvent => exact h

theorem tick (h : AgreeButPrng shown s t) (x : Bool)
    (hdrawn : shown → (s.debRead x).edge ≠ ButtonState.upEdge.code) :
    (t.tick x).1 = (s.tick x).1 ∧ AgreeButPrng shown (s.tick x).2 (t.tick x).2 := by
  obtain ⟨hevent, hroll⟩ := ((h.debRead x).feedEdge hdrawn).rollUpdate
  rw [State.tick_eq, State.tick_eq]
  dsimp only
  rw [hevent]
  have hfed := hroll.feedEvent (s.debRead x).feedEdge.rollUpdate.1
  exact ⟨rfl, (hfed.ledPut hfed.face).ledUpdate⟩

/-- Both machines agree after a command and on its event, on what is shown unless the command performs
ROLL.SLOW. -/
theorem perform (h : AgreeButPrng shown s t) (i : Instr) (hslow : shown → i ≠ .rollSlow)
    (htick : ∀ x, i = .tick x → shown → (s.debRead x).edge ≠ ButtonState.upEdge.code) :
    t.eventOf i = s.eventOf i ∧ AgreeButPrng shown (s.perform i) (t.perform i) := by
  cases i with
  | nop => exact ⟨rfl, h⟩
  | prngGet => exact ⟨rfl, h⟩
  | prngNext => exact ⟨rfl, h.withPrng _ _⟩
  | prngJump => exact ⟨rfl, h.withPrng _ _⟩
  | prngLjump => exact ⟨rfl, h.withPrng _ _⟩
  | prngSet w => exact ⟨rfl, h.withPrng _ _⟩
  | debRead x => exact ⟨rfl, h.debRead x⟩
  | rollStart => exact ⟨rfl, h.rollStart⟩
  | rollSlow => exact ⟨rfl, h.rollSlow fun hs => hslow hs rfl⟩
  | rollUpdate => exact h.rollUpdate
  | ledPut f => exact ⟨rfl, h.ledPut fun _ => rfl⟩
  | ledBlink => exact ⟨rfl, h.ledBlink⟩
  | ledUnblink => exact ⟨rfl, h.ledUnblink⟩
  | ledUpdate => exact ⟨rfl, h.ledUpdate⟩
  | tick x => exact h.tick x (htick x rfl)

end AgreeButPrng

/-- A command performs no ROLL.SLOW: it is not ROLL.SLOW, and it is no TICK that sees UP_EDGE. -/
def ShowsNoDraw (i : Instr) (t : State) : Prop :=
  i ≠ .rollSlow ∧ ∀ x, i = .tick x → t.edge ≠ ButtonState.upEdge.code

/-- Settles O57: the same command on the same state with another `s`. -/
theorem whatDoesNotDependOnThePrngState : Obligations.WhatDoesNotDependOnThePrngState := by
  intro i s t q h
  obtain rfl := eq_of_exec h
  obtain ⟨hevent, hagree⟩ := (agreeButPrng_withPrng
      (ShowsNoDraw i ((s.perform i).respond (Instr.rejected i) (s.eventOf i) (s.dataOf i))) s q).perform i
    (fun hshown => hshown.1)
    (fun x hi hshown => by
      have hedge := hshown.2 x hi
      rwa [State.respond_edge, hi, State.perform, State.tick_edge] at hedge)
  refine ⟨_, exec_eq i _, hagree.hist, hagree.deb, hagree.edge, hagree.pressed, hagree.speed,
    hagree.timer, hagree.blinkCount, hagree.blinkTimer, hagree.scan, ?_, rfl, fun hnext hget => ?_,
    fun hslow htick => ?_⟩
  · rw [State.lastEvent_respond hevent, State.lastEvent_respond rfl]
  · rw [State.respond_resp, State.respond_resp, State.dataOf_eq_zero hnext hget,
      State.dataOf_eq_zero hnext hget]
    rfl
  · have hshown : ShowsNoDraw i _ := ⟨hslow, htick⟩
    exact ⟨hagree.face hshown, hagree.pattern hshown, hagree.lineOe hshown, hagree.lineLvl hshown,
      hagree.driveLog hshown⟩

/-! ### Commands that may be repeated (20_memory.md section 3) -/

/-- Settles O58: each command writes what it wrote before, LED.PUT the pattern of the face or none. -/
theorem repeatedCommandChangesNothing : Obligations.RepeatedCommandChangesNothing := by
  intro i s t hi h
  obtain rfl := eq_of_exec h
  rw [exec_eq]
  rcases hi with rfl | rfl | ⟨w, rfl⟩ | rfl | rfl | ⟨f, rfl⟩ | rfl
  case inr.inr.inr.inr.inr.inl =>
    simp only [State.perform, State.ledPut_eq]
    cases faceLut f <;> rfl
  all_goals rfl

end Sys2Proof.Machine
end
